-- ==== Sys2Proof/Word.lean ====
section
/-! DEFINITION. Word.lean: the block's words, port addresses and wheel names (00_scope.md R3, R6, R8). -/

namespace Sys2Proof

/-- A 32-bit register value (R6 XLEN, R8). -/
abbrev Word := BitVec 32

/-- A 7-bit word address of the host port (R6 AW, R61). -/
abbrev PortAddr := BitVec 7

/-- The four wheels in the source's fixed order (R3): 0 front-left, 1 front-right, 2 rear-right, 3 rear-left. -/
inductive Wheel where
  | fl
  | fr
  | rr
  | rl
deriving DecidableEq, Repr

/-- One value for each wheel (R3: every per-wheel state element exists four times). -/
structure PerWheel (α : Type) where
  fl : α
  fr : α
  rr : α
  rl : α
deriving DecidableEq, Repr

/-- `NAME[w]` (R12). -/
def PerWheel.get {α : Type} (p : PerWheel α) : Wheel → α
  | .fl => p.fl
  | .fr => p.fr
  | .rr => p.rr
  | .rl => p.rl

/-- `NAME[w] <- v` (R12). -/
def PerWheel.set {α : Type} (p : PerWheel α) (w : Wheel) (v : α) : PerWheel α :=
  match w with
  | .fl => { p with fl := v }
  | .fr => { p with fr := v }
  | .rr => { p with rr := v }
  | .rl => { p with rl := v }

/-- Apply `f` to each wheel's copy. -/
def PerWheel.map {α β : Type} (f : α → β) (p : PerWheel α) : PerWheel β :=
  ⟨f p.fl, f p.fr, f p.rr, f p.rl⟩

end Sys2Proof
end

