-- ==== Sys2Proof/Syntax.lean ====
section
/-! DEFINITION. Syntax.lean: the commands of the block, one constructor per row of the opcode table (30_encoding.md R94).
A wheel operand is a `Wheel`, so no command names a wheel that does not exist. -/

namespace Sys2Proof

/-- The seven commands (R94). -/
inductive Instr where
  /-- `NOP` (43_control.md R181). -/
  | nop
  /-- `DCAP w` (40_encoder.md R121). -/
  | dcap (w : Wheel)
  /-- `DCAPA` (40_encoder.md R122). -/
  | dcapa
  /-- `PIDU w` (41_pid.md R141). -/
  | pidu (w : Wheel)
  /-- `PIDI w` (41_pid.md R152). -/
  | pidi (w : Wheel)
  /-- `MIX` (42_mixer.md R161). -/
  | mix
  /-- `MIXC` (42_mixer.md R171). -/
  | mixc
deriving DecidableEq, Repr

end Sys2Proof
end

