-- ==== Sys2Proof/Decode.lean ====
section
/-! DEFINITION. Decode.lean: the command word, format C (30_encoding.md R91 to R96), its decoder and its encoder. -/

namespace Sys2Proof

/-- Wheel `w` of a 2-bit WHEEL field (R93, wheel numbering of R3). -/
def Wheel.ofIndex (i : BitVec 2) : Wheel :=
  match i.toNat with
  | 0 => .fl
  | 1 => .fr
  | 2 => .rr
  | _ => .rl

/-- The WHEEL field of wheel `w` (R93). -/
def Wheel.index : Wheel → BitVec 2
  | .fl => 0
  | .fr => 1
  | .rr => 2
  | .rl => 3

/-- The fields of format C (R92): FUNC = cmd[3:0], WHEEL = cmd[5:4], RSVD = cmd[31:6]. -/
structure CommandFields where
  func : BitVec 4
  wheel : BitVec 2
  rsvd : BitVec 26
deriving DecidableEq, Repr

/-- The fields of a command word (R92). -/
def CommandFields.ofWord (v : Word) : CommandFields where
  func := v.extractLsb 3 0
  wheel := v.extractLsb 5 4
  rsvd := v.extractLsb 31 6

/-- The command word with the given fields (R92). -/
def CommandFields.toWord (f : CommandFields) : Word :=
  f.rsvd ++ f.wheel ++ f.func

/-- Why a word is illegal (R95); the block reports every reason the same way (43_control.md R182).
Where several hold, the first in this order is named (notes/assumptions/20.md). -/
inductive IllegalWord where
  /-- RSVD is not zero. -/
  | reservedBits
  /-- FUNC is 0x7 to 0xF. -/
  | undefinedFunc
  /-- FUNC is 0x0, 0x2, 0x5 or 0x6 and WHEEL is not 00. -/
  | wheelNotZero
deriving DecidableEq, Repr

/-- What a 32-bit word decodes to (R96): one of the seven commands, or illegal. -/
inductive Decoded where
  | command (i : Instr)
  | illegal (why : IllegalWord)
deriving DecidableEq, Repr

/-- A command whose WHEEL field must be 00 (R92). -/
def CommandFields.withoutWheel (f : CommandFields) (i : Instr) : Decoded :=
  if f.wheel = 0 then .command i else .illegal .wheelNotZero

/-- What the fields of a command word select (R94, R95). -/
def CommandFields.decoded (f : CommandFields) : Decoded :=
  if f.rsvd ≠ 0 then .illegal .reservedBits
  else match f.func.toNat with
    | 0 => f.withoutWheel .nop
    | 1 => .command (.dcap (.ofIndex f.wheel))
    | 2 => f.withoutWheel .dcapa
    | 3 => .command (.pidu (.ofIndex f.wheel))
    | 4 => .command (.pidi (.ofIndex f.wheel))
    | 5 => f.withoutWheel .mix
    | 6 => f.withoutWheel .mixc
    | _ => .illegal .undefinedFunc

/-- `Execute(cmd)`'s decoding of a command word (R94, R95): total on the 2^32 words. -/
def decode (v : Word) : Decoded := (CommandFields.ofWord v).decoded

/-- The fields of each command (the FUNC, WHEEL and RSVD columns of R94). -/
def Instr.fields : Instr → CommandFields
  | .nop => ⟨0, 0, 0⟩
  | .dcap w => ⟨1, w.index, 0⟩
  | .dcapa => ⟨2, 0, 0⟩
  | .pidu w => ⟨3, w.index, 0⟩
  | .pidi w => ⟨4, w.index, 0⟩
  | .mix => ⟨5, 0, 0⟩
  | .mixc => ⟨6, 0, 0⟩

/-- The command word of a command (R94). -/
def encode (i : Instr) : Word := i.fields.toWord

/-- The command the decoder reads from an opcode-table row's bits: `nbits` bits numbered from 0, every bit above them 0.
A command is one 32-bit word (R91), so a number that needs more bits is none (notes/assumptions/14.md). -/
def decodeTableWord (nbits w : Nat) : Option Instr :=
  let v := w % 2 ^ nbits
  if v < 2 ^ 32 then
    match decode (BitVec.ofNat 32 v) with
    | .command i => some i
    | .illegal _ => none
  else none

end Sys2Proof
end

