-- ==== Sys2Proof/Config.lean ====
section
/-! DEFINITION. Config.lean: the elaboration parameters of the block (00_scope.md R6, R7).
They are arguments of the model: a State carries its parameter set and every statement quantifies over it.
`Params.default` holds the defaults of R6, which the spec gives for its examples (notes/assumptions/4.md). -/

namespace Sys2Proof

/-- The PID parameters of one wheel: `KP_CFG[w]` to `OUTMAX_CFG[w]` (R6). -/
structure WheelParams where
  kp : Word
  ki : Word
  kd : Word
  alpha : Word
  outMin : Word
  outMax : Word
deriving DecidableEq, Repr

/-- A threshold of the instability clamp: a non-negative integer in [0, 2^31 - 1] (R7).
The range is in the type (notes/assumptions/16.md). -/
abbrev Threshold := Fin 2147483648

/-- The elaboration parameters (R6). -/
structure Params where
  wheel : PerWheel WheelParams
  clampVxLt : Threshold
  clampVyGt : Threshold
  clampWGt : Threshold
deriving DecidableEq, Repr

/-- The defaults of one wheel (R6): zero gains, alpha 1.0, bounds -1.0 and 1.0. -/
def WheelParams.default : WheelParams where
  kp := 0
  ki := 0
  kd := 0
  alpha := 65536
  outMin := BitVec.ofInt 32 (-65536)
  outMax := 65536

/-- The defaults of R6. -/
def Params.default : Params where
  wheel := ⟨.default, .default, .default, .default⟩
  clampVxLt := 6554
  clampVyGt := 19660
  clampWGt := 19660

end Sys2Proof
end

