-- ==== Sys2Proof/Machine/State.lean ====
section
/-! DEFINITION. Machine/State.lean: the architectural state of the block (10_state.md R21 to R43), the inputs the
environment gives it (20_memory.md R70, R78) and the state after reset (R43, 70_reset_and_hazards.md R211). -/

namespace Sys2Proof.Machine

/-- The block raises no exception and no operation faults (60_exceptions.md R191), so there is no fault:
the type has no constructor (safe: no step can end in one; notes/assumptions/19.md). -/
inductive Fault
deriving DecidableEq, Repr

/-- Why the model gives a step no meaning. -/
inductive Refusal where
  /-- Raised by an arm of `exec` whose command has no meaning yet; no arm does (safe). -/
  | notModelled (mnemonic : String)
  /-- Raised by `State.elaborate` and by `step` for a parameter set that 00_scope.md R7 calls illegal
  (safe: the block is not defined for it; notes/assumptions/5.md). -/
  | illegalParameters
deriving DecidableEq, Repr

/-- The registers of one wheel (R28), each 32 bits (R21). -/
structure WheelRegs where
  /-- ABS[w] (R29). -/
  abs : Word
  /-- PEND[w] (R31). -/
  pend : Word
  /-- KP[w] (R32). -/
  kp : Word
  /-- KI[w] (R32). -/
  ki : Word
  /-- KD[w] (R32). -/
  kd : Word
  /-- ALPHA[w] (R33). -/
  alpha : Word
  /-- OUT_MIN[w] (R34). -/
  outMin : Word
  /-- OUT_MAX[w] (R34). -/
  outMax : Word
  /-- INTEG[w] (R35). -/
  integ : Word
  /-- PREV_ERR[w] (R36). -/
  prevErr : Word
  /-- FILT_D[w] (R37). -/
  filtD : Word
  /-- LAST_OUT[w] (R38). -/
  lastOut : Word
deriving DecidableEq, Repr

/-- The registers of a wheel block, in the order of their offsets (R28). -/
inductive WheelReg where
  | abs
  | pend
  | kp
  | ki
  | kd
  | alpha
  | outMin
  | outMax
  | integ
  | prevErr
  | filtD
  | lastOut
deriving DecidableEq, Repr

/-- The registers of the register map (R40). -/
inductive Reg where
  | cmd
  | status
  | arg0
  | arg1
  | arg2
  | res0
  | res1
  | res2
  | res3
  | wheel (w : Wheel) (r : WheelReg)
deriving DecidableEq, Repr

/-- The live steps of the environment (20_memory.md R70). -/
inductive Stimulus where
  /-- The host's `PortRead(a)` (R62). -/
  | portRead (a : PortAddr)
  /-- The host's `PortWrite(a, v)` (R63); a command when `a` is CMD. -/
  | portWrite (a : PortAddr) (v : Word)
  /-- A capture event of wheel `w` with secondary-channel level `b` (40_encoder.md R111). -/
  | capture (w : Wheel) (b : Bool)
deriving DecidableEq, Repr

/-- The edges an encoder's two channels present (40_encoder.md R113). -/
inductive Edge where
  | primaryRising
  | primaryFalling
  | secondaryRising
  | secondaryFalling
deriving DecidableEq, Repr

/-- One step of the environment in the total order of 20_memory.md R71. -/
inductive Input where
  /-- An access or a capture event while reset is not applied. -/
  | live (e : Stimulus)
  /-- The reset step (70_reset_and_hazards.md R211) with the accesses and capture events that arrived while reset
  was applied, all of which are dropped (R213; notes/assumptions/6.md). -/
  | reset (dropped : List Stimulus)
deriving DecidableEq, Repr

/-- The state: the block's registers, its elaboration parameters, and the two ends of its interface. -/
structure State where
  /-- The elaboration parameters the block was built with (00_scope.md R6); no step changes them. -/
  params : Params
  /-- STATUS (R25). -/
  status : Word
  /-- ARG0 (R26). -/
  arg0 : Word
  /-- ARG1 (R26). -/
  arg1 : Word
  /-- ARG2 (R26). -/
  arg2 : Word
  /-- RES0 (R27). -/
  res0 : Word
  /-- RES1 (R27). -/
  res1 : Word
  /-- RES2 (R27). -/
  res2 : Word
  /-- RES3 (R27). -/
  res3 : Word
  /-- The four wheel blocks (R28). -/
  wheels : PerWheel WheelRegs
  /-- The model's own field: the environment's steps still to come, first one first (notes/assumptions/1.md). -/
  inputs : List Input
  /-- The model's own field: the values the port has returned to the host, first one first
  (notes/assumptions/2.md). -/
  replies : List Word
deriving DecidableEq, Repr

/-- A wheel block's registers after reset (R43): the configuration registers hold their parameters, the rest is 0. -/
def WheelRegs.resetWith (p : WheelParams) : WheelRegs where
  abs := 0
  pend := 0
  kp := p.kp
  ki := p.ki
  kd := p.kd
  alpha := p.alpha
  outMin := p.outMin
  outMax := p.outMax
  integ := 0
  prevErr := 0
  filtD := 0
  lastOut := 0

/-- The state after reset of a block built with the parameters `p` (R43, R211), with no input waiting. -/
def State.resetWith (p : Params) : State where
  params := p
  status := 0
  arg0 := 0
  arg1 := 0
  arg2 := 0
  res0 := 0
  res1 := 0
  res2 := 0
  res3 := 0
  wheels := p.wheel.map WheelRegs.resetWith
  inputs := []
  replies := []

/-- The machine right after reset, with the default parameters of R6 (notes/assumptions/4.md). -/
def State.reset : State := .resetWith .default

end Sys2Proof.Machine
end

