-- ==== Sys2Proof/Machine/Flags.lean ====
section
/-! DEFINITION. Machine/Flags.lean: the STATUS register's fields and the value each command writes to it
(10_state.md R25, R41). Every command writes all of STATUS. -/

namespace Sys2Proof.Machine

/-- STATUS = SAT, bit 0 (R25). -/
def statusSat : Word := 0x00000001

/-- STATUS = DTZ, bit 1 (R25). -/
def statusDtz : Word := 0x00000002

/-- STATUS = NORM, bit 2 (R25). -/
def statusNorm : Word := 0x00000004

/-- STATUS = CLAMP, bit 3 (R25). -/
def statusClamp : Word := 0x00000008

/-- STATUS = ILL, bit 4 (R25). -/
def statusIll : Word := 0x00000010

/-- What a PIDU that is not held writes to STATUS (41_pid.md R142, R146). -/
def piduStatus (sat : Bool) : Word := if sat then statusSat else 0

/-- What MIX writes to STATUS (42_mixer.md R161, R167). -/
def mixStatus (norm : Bool) : Word := if norm then statusNorm else 0

/-- What MIXC writes to STATUS (42_mixer.md R171, R174). -/
def mixcStatus (norm clamp : Bool) : Word :=
  (if norm then statusNorm else 0) ||| (if clamp then statusClamp else 0)

/-- The SAT field of STATUS (R25). -/
def State.sat (s : State) : Bool := s.status.getLsbD 0

/-- The DTZ field of STATUS (R25). -/
def State.dtz (s : State) : Bool := s.status.getLsbD 1

/-- The NORM field of STATUS (R25). -/
def State.norm (s : State) : Bool := s.status.getLsbD 2

/-- The CLAMP field of STATUS (R25). -/
def State.clamp (s : State) : Bool := s.status.getLsbD 3

/-- The ILL field of STATUS (R25). -/
def State.ill (s : State) : Bool := s.status.getLsbD 4

end Sys2Proof.Machine
end

