-- ==== Sys2Proof/Machine/Operands.lean ====
section
/-! DEFINITION. Machine/Operands.lean: the arithmetic primitives on mathematical integers (00_scope.md R10), the
reading of a register as a two's-complement integer (R8) and of the operand registers (30_encoding.md R93). -/

namespace Sys2Proof.Machine

/-- `s32(v)`: the two's-complement reading of a register value (R8). -/
def s32 (v : Word) : Int := v.toInt

/-- The register value of an integer, its low 32 bits in two's complement.
R9 applies it only to values in [-2^31, 2^31 - 1]. -/
def toWord (x : Int) : Word := BitVec.ofInt 32 x

/-- `wrap32(x)` (R10). -/
def wrap32 (x : Int) : Int := (x + 2147483648) % 4294967296 - 2147483648

/-- `sat32(x)` (R10). -/
def sat32 (x : Int) : Int := min (max x (-2147483648)) 2147483647

/-- `abs(x)` (R10). -/
def absInt (x : Int) : Int := if x ≥ 0 then x else -x

/-- `sign(x)` (R10). -/
def signInt (x : Int) : Int := if x > 0 then 1 else if x = 0 then 0 else -1

/-- `tdiv(a, b)` (R10): the quotient truncated toward zero.
R10 evaluates it for `b` other than 0 only; here `b = 0` gives 0 (notes/assumptions/15.md). -/
def tdiv (a b : Int) : Int := signInt a * signInt b * (absInt a / absInt b)

/-- `fmul(a, b)` (R10): the Q16.16 product, truncated toward zero and saturated. -/
def fmul (a b : Int) : Int := sat32 (tdiv (a * b) 65536)

/-- `fdiv(a, b)` (R10): the Q16.16 quotient, truncated toward zero and saturated. -/
def fdiv (a b : Int) : Int := sat32 (tdiv (a * 65536) b)

/-- `clampmm(x, lo, hi)` (R10): the upper bound is tested first. -/
def clampmm (x lo hi : Int) : Int := if x > hi then hi else if x < lo then lo else x

/-- ARG0 as a Q16.16 operand (R93). -/
def State.operand0 (s : State) : Int := s32 s.arg0

/-- ARG1 as a Q16.16 operand (R93). -/
def State.operand1 (s : State) : Int := s32 s.arg1

/-- ARG2 as a Q16.16 operand (R93). -/
def State.operand2 (s : State) : Int := s32 s.arg2

end Sys2Proof.Machine
end

