-- ==== Sys2Proof/WellFormed.lean ====
section
/-! DEFINITION. WellFormed.lean: the checks the spec makes on what is written down for the block:
the fields of a command word (30_encoding.md R95), a command, and an elaboration parameter set (00_scope.md R7). -/

namespace Sys2Proof

/-- RSVD is zero (R95). -/
def CommandFields.rsvdZero (f : CommandFields) : Bool := f.rsvd == 0

/-- FUNC is 0x0 to 0x6 (R95). -/
def CommandFields.funcDefined (f : CommandFields) : Bool := f.func.toNat ≤ 6

/-- FUNC names a command with a wheel operand, DCAP, PIDU or PIDI (R92). -/
def CommandFields.takesWheel (f : CommandFields) : Bool := f.func == 1 || f.func == 3 || f.func == 4

/-- WHEEL is 00 unless the command takes a wheel (R92, R95). -/
def CommandFields.wheelAllowed (f : CommandFields) : Bool := f.takesWheel || f.wheel == 0

/-- The fields are those of a legal command word (R95). -/
def CommandFields.legal (f : CommandFields) : Bool := f.rsvdZero && f.funcDefined && f.wheelAllowed

/-- A command is well-formed when its fields are those of a legal command word.
Its wheel operand is a `Wheel`, so every command is (`Sys2Proof.Laws.FieldsLegal`). -/
def Instr.wellFormed (i : Instr) : Bool := i.fields.legal

/-- `ALPHA_CFG[w]` lies in [1, 65536] (R7). -/
def WheelParams.legal (p : WheelParams) : Bool := decide (1 ≤ p.alpha.toInt) && decide (p.alpha.toInt ≤ 65536)

/-- The parameter set is legal (R7): every wheel's `ALPHA_CFG` is in range.
Every other PID parameter may be any 32-bit value, and the thresholds' range is in their type. -/
def Params.legal (p : Params) : Bool :=
  p.wheel.fl.legal && p.wheel.fr.legal && p.wheel.rr.legal && p.wheel.rl.legal

end Sys2Proof
end

