-- ==== Sys2Proof/Machine/Ops.lean ====
section
/-! DEFINITION. Machine/Ops.lean: the named operations on the state: the register map and reading a register
(10_state.md R40), writing one, a capture event (40_encoder.md R111), the effect of an illegal command word
(43_control.md R182), and reset (70_reset_and_hazards.md R211).
The block takes no exception and returns from none (60_exceptions.md R191), so there is no operation for either. -/

namespace Sys2Proof.Machine

/-- The registers of wheel `w`. -/
def State.wheel (s : State) (w : Wheel) : WheelRegs := s.wheels.get w

/-- Write all registers of wheel `w`. -/
def State.setWheel (s : State) (w : Wheel) (r : WheelRegs) : State := { s with wheels := s.wheels.set w r }

/-- The environment's waiting steps are `is`. -/
def State.setInputs (s : State) (is : List Input) : State := { s with inputs := is }

/-- `STATUS <- v`. -/
def State.setStatus (s : State) (v : Word) : State := { s with status := v }

/-- `ARG0 <- v`. -/
def State.setArg0 (s : State) (v : Word) : State := { s with arg0 := v }

/-- `ARG1 <- v`. -/
def State.setArg1 (s : State) (v : Word) : State := { s with arg1 := v }

/-- `ARG2 <- v`. -/
def State.setArg2 (s : State) (v : Word) : State := { s with arg2 := v }

/-- `RES0 <- v`. -/
def State.setRes0 (s : State) (v : Word) : State := { s with res0 := v }

/-- `RES0 <- v0; RES1 <- v1; RES2 <- v2; RES3 <- v3`. -/
def State.setRes (s : State) (v0 v1 v2 v3 : Word) : State :=
  { s with res0 := v0, res1 := v1, res2 := v2, res3 := v3 }

/-- The host is given the value `v` (20_memory.md R78). -/
def State.giveReply (s : State) (v : Word) : State := { s with replies := s.replies ++ [v] }

/-- The offset of a register in its wheel block (10_state.md R28). -/
def WheelReg.offset : WheelReg → Nat
  | .abs => 0x0
  | .pend => 0x1
  | .kp => 0x2
  | .ki => 0x3
  | .kd => 0x4
  | .alpha => 0x5
  | .outMin => 0x6
  | .outMax => 0x7
  | .integ => 0x8
  | .prevErr => 0x9
  | .filtD => 0xA
  | .lastOut => 0xB

/-- The register at an offset of a wheel block; offsets 0xC to 0xF are reserved (R28, R39). -/
def WheelReg.ofOffset : Nat → Option WheelReg
  | 0x0 => some .abs
  | 0x1 => some .pend
  | 0x2 => some .kp
  | 0x3 => some .ki
  | 0x4 => some .kd
  | 0x5 => some .alpha
  | 0x6 => some .outMin
  | 0x7 => some .outMax
  | 0x8 => some .integ
  | 0x9 => some .prevErr
  | 0xA => some .filtD
  | 0xB => some .lastOut
  | _ => none

/-- `base(w) = 0x10 * (w + 1)` (R28). -/
def wheelBase (w : Wheel) : Nat := 0x10 * (w.index.toNat + 1)

/-- The word address of a register (R40). -/
def Reg.addr : Reg → PortAddr
  | .cmd => 0x00
  | .status => 0x01
  | .arg0 => 0x02
  | .arg1 => 0x03
  | .arg2 => 0x04
  | .res0 => 0x05
  | .res1 => 0x06
  | .res2 => 0x07
  | .res3 => 0x08
  | .wheel w r => BitVec.ofNat 7 (wheelBase w + r.offset)

/-- The register at an address of the first 16 words (R40). -/
def Reg.ofCommandOffset : Nat → Option Reg
  | 0x0 => some .cmd
  | 0x1 => some .status
  | 0x2 => some .arg0
  | 0x3 => some .arg1
  | 0x4 => some .arg2
  | 0x5 => some .res0
  | 0x6 => some .res1
  | 0x7 => some .res2
  | 0x8 => some .res3
  | _ => none

/-- The register a word address names; `none` for a reserved word (R39, R40). -/
def Reg.ofAddr (a : PortAddr) : Option Reg :=
  let low := a.toNat % 16
  match a.toNat / 16 with
  | 0 => Reg.ofCommandOffset low
  | 1 => (WheelReg.ofOffset low).map (.wheel .fl)
  | 2 => (WheelReg.ofOffset low).map (.wheel .fr)
  | 3 => (WheelReg.ofOffset low).map (.wheel .rr)
  | 4 => (WheelReg.ofOffset low).map (.wheel .rl)
  | _ => none

/-- A register of a wheel block (R28). -/
def WheelRegs.read (k : WheelRegs) : WheelReg → Word
  | .abs => k.abs
  | .pend => k.pend
  | .kp => k.kp
  | .ki => k.ki
  | .kd => k.kd
  | .alpha => k.alpha
  | .outMin => k.outMin
  | .outMax => k.outMax
  | .integ => k.integ
  | .prevErr => k.prevErr
  | .filtD => k.filtD
  | .lastOut => k.lastOut

/-- The value the host reads from a register; CMD holds nothing and reads 0 (R24). -/
def State.read (s : State) : Reg → Word
  | .cmd => 0
  | .status => s.status
  | .arg0 => s.arg0
  | .arg1 => s.arg1
  | .arg2 => s.arg2
  | .res0 => s.res0
  | .res1 => s.res1
  | .res2 => s.res2
  | .res3 => s.res3
  | .wheel w r => (s.wheel w).read r

/-- The value `PortRead(a)` returns (20_memory.md R62); a reserved word reads 0 (R39). -/
def portRead (a : PortAddr) (s : State) : Word :=
  match Reg.ofAddr a with
  | some r => s.read r
  | none => 0

/-- The change of a counter at a capture event with secondary level `b` (40_encoder.md R111, R112). -/
def tick (b : Bool) : Int := if b then 1 else -1

/-- A wheel's registers after a capture event: ABS and PEND move together and wrap (R111, R115). -/
def WheelRegs.count (k : WheelRegs) (b : Bool) : WheelRegs :=
  { k with
    abs := toWord (wrap32 (s32 k.abs + tick b))
    pend := toWord (wrap32 (s32 k.pend + tick b)) }

/-- `Capture(w, b)` (R111). -/
def State.capture (s : State) (w : Wheel) (b : Bool) : State := s.setWheel w ((s.wheel w).count b)

/-- A wheel's registers after a delta capture: PEND is cleared (R121). -/
def WheelRegs.clearPend (k : WheelRegs) : WheelRegs := { k with pend := 0 }

/-- The environment's step for an edge of wheel `w`'s encoder, the secondary channel being at level `b` (R113):
a primary rising edge is one capture event, and no other edge is a step of the block. -/
def Edge.inputs (e : Edge) (w : Wheel) (b : Bool) : List Input :=
  match e with
  | .primaryRising => [.live (.capture w b)]
  | .primaryFalling => []
  | .secondaryRising => []
  | .secondaryFalling => []

/-- `Illegal(cmd)`: STATUS <- ILL and nothing else (43_control.md R182). -/
def State.reportIllegal (s : State) : State := s.setStatus statusIll

/-- The steps of a CMD write of `v` and a capture event that arrive at the same instant: the command's step first
(20_memory.md R72; notes/assumptions/8.md). -/
def simultaneous (v : Word) (w : Wheel) (b : Bool) : List Input :=
  [.live (.portWrite Reg.cmd.addr v), .live (.capture w b)]

/-- The replies to the port reads among the accesses dropped during reset: 0 each (70_reset_and_hazards.md R213). -/
def droppedReplies : List Stimulus → List Word
  | [] => []
  | .portRead _ :: es => 0 :: droppedReplies es
  | .portWrite _ _ :: es => droppedReplies es
  | .capture _ _ :: es => droppedReplies es

/-- The reset step (R211): every register at its reset value, and what arrived during it dropped (R213). -/
def State.applyReset (s : State) (dropped : List Stimulus) : State :=
  { State.resetWith s.params with inputs := s.inputs, replies := s.replies ++ droppedReplies dropped }

/-- Elaborate the block with the parameters `p` and reset it: refused for an illegal set (00_scope.md R7),
the launch premise "reset applied, parameters legal" otherwise (70_reset_and_hazards.md R217). -/
def State.elaborate (p : Params) : Host.Outcome State Fault Refusal :=
  if p.legal then .next (State.resetWith p) else .refused .illegalParameters

end Sys2Proof.Machine
end

