-- ==== Sys2Proof/Machine/Control.lean ====
section
/-! DEFINITION. Machine/Control.lean: the control family, NOP (43_control.md R181).
The effect of an illegal word (R182) is `State.reportIllegal` of Machine/Ops.lean. -/

namespace Sys2Proof.Machine

/-- `NOP` (R181): STATUS <- 0. -/
def execNop (s : State) : Host.Outcome State Fault Refusal := .next (s.setStatus 0)

end Sys2Proof.Machine
end

