-- ==== Sys2Proof/Machine/Encoder.lean ====
section
/-! DEFINITION. Machine/Encoder.lean: the delta capture commands (40_encoder.md R121, R122). -/

namespace Sys2Proof.Machine

/-- `DCAP w` (R121): RES0 <- PEND[w], PEND[w] <- 0, STATUS <- 0, in one step. -/
def execDcap (w : Wheel) (s : State) : Host.Outcome State Fault Refusal :=
  .next (((s.setRes0 (s.wheel w).pend).setWheel w (s.wheel w).clearPend).setStatus 0)

/-- Clear PEND of every wheel (R122). -/
def State.clearAllPend (s : State) : State := { s with wheels := s.wheels.map WheelRegs.clearPend }

/-- `DCAPA` (R122): RESi <- PEND[i] and PEND[i] <- 0 for every wheel, STATUS <- 0, in one step. -/
def execDcapa (s : State) : Host.Outcome State Fault Refusal :=
  .next ((s.setRes (s.wheel .fl).pend (s.wheel .fr).pend (s.wheel .rr).pend (s.wheel .rl).pend).clearAllPend.setStatus 0)

end Sys2Proof.Machine
end

