-- ==== Sys2Proof/Machine/Mixer.lean ====
section
/-! DEFINITION. Machine/Mixer.lean: the mixer commands (42_mixer.md R161 to R176). -/

namespace Sys2Proof.Machine

/-- The four wheel commands and whether they were normalized (R162). -/
structure Mixed where
  r0 : Int
  r1 : Int
  r2 : Int
  r3 : Int
  norm : Bool
deriving DecidableEq, Repr

/-- `M`, the normalizing magnitude of four sums (R164). -/
def mixMagnitude (m0 m1 m2 m3 : Int) : Int := max (max (max (absInt m0) (absInt m1)) (absInt m2)) (absInt m3)

/-- Normalization of four sums (R165, R166): exactly when `M > 65536`. -/
def normalizeSums (m0 m1 m2 m3 : Int) : Mixed :=
  let big := mixMagnitude m0 m1 m2 m3
  if big > 65536 then
    ⟨tdiv (m0 * 65536) big, tdiv (m1 * 65536) big, tdiv (m2 * 65536) big, tdiv (m3 * 65536) big, true⟩
  else ⟨m0, m1, m2, m3, false⟩

/-- `MixCore(vx, vy, wz)` (R162): the exact sums of the mixing matrix (R163), normalized. -/
def mixCore (vx vy wz : Int) : Mixed :=
  normalizeSums (vx - vy - wz) (vx + vy + wz) (vx - vy + wz) (vx + vy - wz)

/-- RES0 to RES3 <- the four wheel commands (R161). -/
def State.setMixed (s : State) (r : Mixed) : State :=
  s.setRes (toWord r.r0) (toWord r.r1) (toWord r.r2) (toWord r.r3)

/-- `MIX` (R161). -/
def execMix (s : State) : Host.Outcome State Fault Refusal :=
  let r := mixCore s.operand0 s.operand1 s.operand2
  .next ((s.setMixed r).setStatus (mixStatus r.norm))

/-- The clamp condition (R172), on exact absolute values. -/
def clampHolds (p : Params) (vx vy wz : Int) : Bool :=
  decide (absInt vx < (p.clampVxLt.val : Int)) && decide (absInt vy > (p.clampVyGt.val : Int))
    && decide (absInt wz > (p.clampWGt.val : Int))

/-- The rotate component MIXC mixes, `wz2` of R171. -/
def clampedW (p : Params) (vx vy wz : Int) : Int := if clampHolds p vx vy wz then 0 else wz

/-- `MIXC` (R171): the clamp acts inside the command, ARG2 keeps its value. -/
def execMixc (s : State) : Host.Outcome State Fault Refusal :=
  let clamp := clampHolds s.params s.operand0 s.operand1 s.operand2
  let r := mixCore s.operand0 s.operand1 (clampedW s.params s.operand0 s.operand1 s.operand2)
  .next ((s.setMixed r).setStatus (mixcStatus r.norm clamp))

end Sys2Proof.Machine
end

