-- ==== Sys2Proof/Machine/Pid.lean ====
section
/-! DEFINITION. Machine/Pid.lean: the PID commands (41_pid.md R141 to R153). -/

namespace Sys2Proof.Machine

/-- The values a PIDU that is not held computes (R142). -/
structure PidUpdate where
  /-- The error. -/
  e : Int
  /-- The candidate integral. -/
  candI : Int
  /-- The filtered derivative. -/
  fD : Int
  /-- The unsaturated output. -/
  u : Int
  /-- The unsaturated output lies outside the bounds (R145). -/
  sat : Bool
  /-- The saturated output. -/
  y : Int
deriving DecidableEq, Repr

/-- `e`, step 1 of R142: the saturated error. -/
def pidError (t m : Int) : Int := sat32 (t - m)

/-- `candI`, step 2 of R142: the candidate integral. -/
def pidCandidate (k : WheelRegs) (e dt : Int) : Int := sat32 (s32 k.integ + fmul e dt)

/-- `fD`, steps 3 and 4 of R142: the filtered derivative. -/
def pidFiltered (k : WheelRegs) (e dt : Int) : Int :=
  let rawD := fdiv (e - s32 k.prevErr) dt
  let a := s32 k.alpha
  sat32 (fmul a rawD + fmul (65536 - a) (s32 k.filtD))

/-- `u`, step 5 of R142: the exact sum of the three products, not saturated. -/
def pidOutput (k : WheelRegs) (e candI fD : Int) : Int :=
  fmul (s32 k.kp) e + fmul (s32 k.ki) candI + fmul (s32 k.kd) fD

/-- Whether the output saturates (R145): strictly outside a bound. -/
def pidSaturates (k : WheelRegs) (u : Int) : Bool := decide (u > s32 k.outMax) || decide (u < s32 k.outMin)

/-- Steps 1 to 6 of R142 for one wheel, from target `t`, measured value `m` and elapsed time `dt > 0`. -/
def pidUpdate (k : WheelRegs) (t m dt : Int) : PidUpdate :=
  let e := pidError t m
  let candI := pidCandidate k e dt
  let fD := pidFiltered k e dt
  let u := pidOutput k e candI fD
  ⟨e, candI, fD, u, pidSaturates k u, clampmm u (s32 k.outMin) (s32 k.outMax)⟩

/-- A wheel's registers after an update (R142): the integral is committed only without saturation (R144). -/
def WheelRegs.afterUpdate (k : WheelRegs) (p : PidUpdate) : WheelRegs :=
  { k with
    integ := if p.sat then k.integ else toWord p.candI
    filtD := toWord p.fD
    prevErr := toWord p.e
    lastOut := toWord p.y }

/-- A held PIDU (R143): RES0 <- LAST_OUT[w], STATUS <- DTZ, no other write. -/
def State.pidHold (s : State) (w : Wheel) : State := (s.setRes0 (s.wheel w).lastOut).setStatus statusDtz

/-- The writes of a PIDU that is not held (R142). -/
def State.pidCommit (s : State) (w : Wheel) (p : PidUpdate) : State :=
  ((s.setWheel w ((s.wheel w).afterUpdate p)).setRes0 (toWord p.y)).setStatus (piduStatus p.sat)

/-- `PIDU w` (R141, R142): held when `dt <= 0` (R143), an update otherwise. -/
def execPidu (w : Wheel) (s : State) : Host.Outcome State Fault Refusal :=
  if s.operand2 ≤ 0 then .next (s.pidHold w)
  else .next (s.pidCommit w (pidUpdate (s.wheel w) s.operand0 s.operand1 s.operand2))

/-- A wheel's registers after PIDI (R152). -/
def WheelRegs.clearPid (k : WheelRegs) : WheelRegs :=
  { k with integ := 0, prevErr := 0, filtD := 0, lastOut := 0 }

/-- `PIDI w` (R152): INTEG, PREV_ERR, FILT_D, LAST_OUT of wheel w <- 0, STATUS <- 0. -/
def execPidi (w : Wheel) (s : State) : Host.Outcome State Fault Refusal :=
  .next ((s.setWheel w (s.wheel w).clearPid).setStatus 0)

end Sys2Proof.Machine
end

