-- ==== Sys2Proof/Machine/Dispatch.lean ====
section
/-! DEFINITION. Machine/Dispatch.lean: one arm per command (30_encoding.md R94). -/

namespace Sys2Proof.Machine

/-- The effect of a command. -/
def exec (i : Instr) (s : State) : Host.Outcome State Fault Refusal :=
  match i with
  | .nop => Sys2Proof.Machine.execNop s
  | .dcap w => Sys2Proof.Machine.execDcap w s
  | .dcapa => Sys2Proof.Machine.execDcapa s
  | .pidu w => Sys2Proof.Machine.execPidu w s
  | .pidi w => Sys2Proof.Machine.execPidi w s
  | .mix => Sys2Proof.Machine.execMix s
  | .mixc => Sys2Proof.Machine.execMixc s

end Sys2Proof.Machine
end

