-- ==== Sys2Proof/Machine/Port.lean ====
section
/-! DEFINITION. Machine/Port.lean: the host port and the environment's steps (20_memory.md R62, R63, R70). -/

namespace Sys2Proof.Machine

/-- `Execute(cmd)` (30_encoding.md R94): the whole command in the step of its write. -/
def execute (v : Word) (s : State) : Host.Outcome State Fault Refusal :=
  match decode v with
  | .command i => exec i s
  | .illegal _ => .next s.reportIllegal

/-- `PortWrite(a, v)` (R63): CMD runs a command, ARG0 to ARG2 store the value, every other address ignores it. -/
def portWrite (a : PortAddr) (v : Word) (s : State) : Host.Outcome State Fault Refusal :=
  match Reg.ofAddr a with
  | some .cmd => execute v s
  | some .arg0 => .next (s.setArg0 v)
  | some .arg1 => .next (s.setArg1 v)
  | some .arg2 => .next (s.setArg2 v)
  | _ => .next s

/-- One live step of the environment (R70). -/
def perform (e : Stimulus) (s : State) : Host.Outcome State Fault Refusal :=
  match e with
  | .portRead a => .next (s.giveReply (portRead a s))
  | .portWrite a v => portWrite a v s
  | .capture w b => .next (s.capture w b)

/-- One step of the environment: a live one, or reset (70_reset_and_hazards.md R211). -/
def accept (i : Input) (s : State) : Host.Outcome State Fault Refusal :=
  match i with
  | .live e => perform e s
  | .reset dropped => .next (s.applyReset dropped)

/-- The environment's next step is the CMD write of the command word `v` (30_encoding.md R91). -/
def State.withCommand (s : State) (v : Word) : State :=
  (s.setInputs (.live (.portWrite Reg.cmd.addr v) :: s.inputs))

/-- The command word of an opcode-table row's bits: `nbits` bits numbered from 0, every bit above them 0. -/
def tableWord (nbits w : Nat) : Word := BitVec.ofNat 32 (w % 2 ^ nbits)

end Sys2Proof.Machine
end

