-- ==== Sys2Proof/Machine/Step.lean ====
section
/-! DEFINITION. Machine/Step.lean: one step of the machine, the next step of the environment in the total order of
20_memory.md R71. With no input waiting the block does nothing (notes/assumptions/3.md). -/

namespace Sys2Proof.Machine

/-- One step. A block with an illegal parameter set does not run (00_scope.md R7; notes/assumptions/5.md). -/
def step (s : State) : Host.Outcome State Fault Refusal :=
  if s.params.legal then
    match s.inputs with
    | [] => .next s
    | i :: rest => accept i (s.setInputs rest)
  else .refused .illegalParameters

/-- `s` with the CMD write of an opcode-table row's word as the very next step (notes/assumptions/14.md). -/
def State.withFetchWord (s : State) (nbits w : Nat) : State := s.withCommand (tableWord nbits w)

end Sys2Proof.Machine
end

