-- ==== Sys2Proof/Machine/Assembler.lean ====
section
/-! DEFINITION. Machine/Assembler.lean: the spec's syntax for host programs (30_encoding.md R97) and its
pseudo-instructions (R98), each the list of environment steps it stands for; not part of the hardware (D32).
A program is put into `State.inputs`; `.param` is the parameter set given to `State.elaborate`. -/

namespace Sys2Proof.Machine.Asm

/-- `NOP`, `DCAP w`, `DCAPA`, `PIDU w`, `PIDI w`, `MIX`, `MIXC`: a CMD write of the command's encoding (R97). -/
def instr (i : Instr) : List Input := [.live (.portWrite 0x00 (encode i))]

/-- `WR reg, v` with a register name (R97). -/
def wr (r : Reg) (v : Word) : List Input := [.live (.portWrite r.addr v)]

/-- `WR a, v` with a word address (R97). -/
def wrAddr (a : PortAddr) (v : Word) : List Input := [.live (.portWrite a v)]

/-- `RD reg -> x` with a register name (R97); `x` is the reply. -/
def rd (r : Reg) : List Input := [.live (.portRead r.addr)]

/-- `RD a -> x` with a word address (R97). -/
def rdAddr (a : PortAddr) : List Input := [.live (.portRead a)]

/-- `CAP w, b` (R97). -/
def cap (w : Wheel) (b : Bool) : List Input := [.live (.capture w b)]

/-- The literal `rq` of the real number `r = num / den`, `round_half_away(r * 65536)` (R97); `den` is not 0
(notes/assumptions/10.md). -/
def qLiteral (num : Int) (den : Nat) : Word :=
  toWord (signInt num * ((2 * (absInt num * 65536) + den) / (2 * den)))

/-- `PID w, t, m, dt -> y` (R98). -/
def pid (w : Wheel) (t m dt : Word) : List Input :=
  wr .arg0 t ++ wr .arg1 m ++ wr .arg2 dt ++ instr (.pidu w) ++ rd .res0

/-- `MIXV vx, vy, wz` (R98). -/
def mixv (vx vy wz : Word) : List Input := wr .arg0 vx ++ wr .arg1 vy ++ wr .arg2 wz ++ instr .mix

/-- `MIXVC vx, vy, wz` (R98). -/
def mixvc (vx vy wz : Word) : List Input := wr .arg0 vx ++ wr .arg1 vy ++ wr .arg2 wz ++ instr .mixc

/-- `SAMPLE -> d0, d1, d2, d3` (R98). -/
def sample : List Input := instr .dcapa ++ rd .res0 ++ rd .res1 ++ rd .res2 ++ rd .res3

/-- `CMD v` (R98): a raw command word, legal or not. -/
def cmd (v : Word) : List Input := wr .cmd v

end Sys2Proof.Machine.Asm
end

