-- ==== Sys2Proof/Safety.lean ====
section
/-! DEFINITION. Safety.lean: the invariant of the block, runs over a list of inputs, and the terms in which claims
about runs speak: delta captures, the values they return and the ticks of capture events. -/

namespace Sys2Proof.Machine

/-- `t` reads as `s` at every word address but those of `regs`, and has the same parameters, waiting inputs and
replies: the frame of a command. -/
def State.unchangedExcept (s t : State) (regs : List Reg) : Prop :=
  (∀ a : PortAddr, (∀ r ∈ regs, a ≠ r.addr) → portRead a t = portRead a s) ∧ t.params = s.params
    ∧ t.inputs = s.inputs ∧ t.replies = s.replies

/-- The configuration registers of a wheel hold its elaboration parameters (41_pid.md R153). -/
def WheelRegs.configured (k : WheelRegs) (p : WheelParams) : Prop :=
  k.kp = p.kp ∧ k.ki = p.ki ∧ k.kd = p.kd ∧ k.alpha = p.alpha ∧ k.outMin = p.outMin ∧ k.outMax = p.outMax

/-- STATUS holds one of the values a command can report (10_state.md R25, 60_exceptions.md R193): nothing, SAT or
DTZ alone, NORM and CLAMP in any combination, ILL alone. -/
def statusReportable (v : Word) : Prop :=
  v = 0 ∨ v = statusSat ∨ v = statusDtz ∨ v = statusNorm ∨ v = statusClamp ∨ v = statusNorm ||| statusClamp
    ∨ v = statusIll

/-- The invariant: legal parameters, every configuration register at its parameter, a reportable STATUS. -/
structure Inv (s : State) : Prop where
  legal : s.params.legal = true
  configured : ∀ w : Wheel, (s.wheel w).configured (s.params.wheel.get w)
  status : statusReportable s.status

/-- The run of the inputs `is` from `s`: each input with the state after its step; it ends early at a refusal. -/
def runTrace : State → List Input → List (Input × State)
  | _, [] => []
  | s, i :: is =>
    match step (s.setInputs [i]) with
    | .next t => (i, t) :: runTrace t is
    | .fault _ => []
    | .refused _ => []

/-- The state after the run of the inputs `is` from `s`. -/
def runEnd : State → List Input → State
  | s, [] => s
  | s, i :: is =>
    match step (s.setInputs [i]) with
    | .next t => runEnd t is
    | .fault _ => s
    | .refused _ => s

/-- `n` steps of the machine. -/
def steps (n : Nat) (s : State) : Host.Outcome State Fault Refusal := Host.Core.run Sys2Proof.core n s

/-- The input is a reset step. -/
def Input.isReset : Input → Bool
  | .reset _ => true
  | .live _ => false

/-- The command a live CMD write carries, if its word is legal. -/
def Input.command : Input → Option Instr
  | .live (.portWrite a v) =>
    if a = 0x00 then
      match decode v with
      | .command i => some i
      | .illegal _ => none
    else none
  | .live (.portRead _) => none
  | .live (.capture _ _) => none
  | .reset _ => none

/-- The input is a delta capture of wheel `w` (40_encoder.md R123): DCAP w or DCAPA. -/
def Input.isDeltaCapture (w : Wheel) (i : Input) : Bool :=
  i.command == some (.dcap w) || i.command == some .dcapa

/-- RES0, RES1, RES2, RES3 by wheel, as DCAPA fills them (R122). -/
def State.resOf (s : State) : Wheel → Word
  | .fl => s.res0
  | .fr => s.res1
  | .rr => s.res2
  | .rl => s.res3

/-- The sum of the values that the delta captures of wheel `w` in a run returned, each read as an integer from the
result register of the state after it: RES0 after DCAP w, RES[w] after DCAPA. -/
def returnedSum (w : Wheel) : List (Input × State) → Int
  | [] => 0
  | (i, t) :: rest =>
    (if i.command = some (.dcap w) then s32 t.res0
     else if i.command = some .dcapa then s32 (t.resOf w) else 0) + returnedSum w rest

/-- The output of the last PIDU of wheel `w` in a run that was not held, since the last PIDI of `w` or reset, and
`y` where the run holds none of these (41_pid.md R143): a PIDU was held when it left DTZ in STATUS (R146). -/
def lastOutput (w : Wheel) : List (Input × State) → Word → Word
  | [], y => y
  | (i, t) :: rest, y =>
    lastOutput w rest
      (if i.isReset then 0
       else if i.command = some (.pidi w) then 0
       else if i.command = some (.pidu w) ∧ t.status ≠ statusDtz then t.res0 else y)

/-- Every PIDU of wheel `w` in a run saturated: it left SAT in STATUS (41_pid.md R146). -/
def allSaturated (w : Wheel) (tr : List (Input × State)) : Prop :=
  ∀ x ∈ tr, x.1.command = some (.pidu w) → x.2.status = statusSat

/-- The sum of `d` over the capture events of wheel `w` among the inputs (R111, R123). -/
def ticks (w : Wheel) : List Input → Int
  | [] => 0
  | .live (.capture w' b) :: is => (if w' = w then tick b else 0) + ticks w is
  | .live (.portRead _) :: is => ticks w is
  | .live (.portWrite _ _) :: is => ticks w is
  | .reset _ :: is => ticks w is

end Sys2Proof.Machine
end

