-- ==== Sys2Proof/Certificates/Slice0/Obligations.lean ====
section
/-! DEFINITION. Certificates/Slice0/Obligations.lean: the statements for the provers.
Names R<n> are rules of spec/; addresses are written as the register map gives them (10_state.md R40) or through
`Reg.addr`, which `Obligations.PortReadFollowsTheRegisterMap` pins to them.
The frame of a command is `State.unchangedExcept`: every word address but the named ones reads as before, and the
parameters, the waiting inputs and the replies are the same. -/

open Sys2Proof Sys2Proof.Machine

/-! ## Encoding -/

/-- Every word has at most one meaning and every command exactly one word (30_encoding.md section 3). -/
def Obligations.DecodeReadsExactlyTheEncodedWord : Prop :=
  ∀ (v : Word) (i : Instr), decode v = .command i ↔ v = encode i

/-- R94: a word is a row's command exactly when `(cmd & mask) = match`, the wheel of a per-wheel command is the `w` of
`match | (w << 4)`, and any other word is illegal. -/
def Obligations.MaskAndMatchSelectTheRow : Prop :=
  ∀ v : Word,
    (decode v = .command .nop ↔ v &&& 0xFFFFFFFF = 0x00000000)
    ∧ ((∃ w, decode v = .command (.dcap w)) ↔ v &&& 0xFFFFFFCF = 0x00000001)
    ∧ (decode v = .command .dcapa ↔ v &&& 0xFFFFFFFF = 0x00000002)
    ∧ ((∃ w, decode v = .command (.pidu w)) ↔ v &&& 0xFFFFFFCF = 0x00000003)
    ∧ ((∃ w, decode v = .command (.pidi w)) ↔ v &&& 0xFFFFFFCF = 0x00000004)
    ∧ (decode v = .command .mix ↔ v &&& 0xFFFFFFFF = 0x00000005)
    ∧ (decode v = .command .mixc ↔ v &&& 0xFFFFFFFF = 0x00000006)
    ∧ (decode v = .command (.dcap .fl) ↔ v = 0x01) ∧ (decode v = .command (.dcap .fr) ↔ v = 0x11)
    ∧ (decode v = .command (.dcap .rr) ↔ v = 0x21) ∧ (decode v = .command (.dcap .rl) ↔ v = 0x31)
    ∧ (decode v = .command (.pidu .fl) ↔ v = 0x03) ∧ (decode v = .command (.pidu .fr) ↔ v = 0x13)
    ∧ (decode v = .command (.pidu .rr) ↔ v = 0x23) ∧ (decode v = .command (.pidu .rl) ↔ v = 0x33)
    ∧ (decode v = .command (.pidi .fl) ↔ v = 0x04) ∧ (decode v = .command (.pidi .fr) ↔ v = 0x14)
    ∧ (decode v = .command (.pidi .rr) ↔ v = 0x24) ∧ (decode v = .command (.pidi .rl) ↔ v = 0x34)
    ∧ ((∃ why, decode v = .illegal why) ↔
        v &&& 0xFFFFFFFF ≠ 0x00000000 ∧ v &&& 0xFFFFFFCF ≠ 0x00000001 ∧ v &&& 0xFFFFFFFF ≠ 0x00000002
          ∧ v &&& 0xFFFFFFCF ≠ 0x00000003 ∧ v &&& 0xFFFFFFCF ≠ 0x00000004 ∧ v &&& 0xFFFFFFFF ≠ 0x00000005
          ∧ v &&& 0xFFFFFFFF ≠ 0x00000006)

/-- R95: which words are illegal, that all but 16 are, and that every illegal word sets STATUS to ILL and nothing
else. -/
def Obligations.IllegalWordsAreAllButSixteen : Prop :=
  ∀ v : Word,
    ((∃ why, decode v = .illegal why) ↔
      v.extractLsb 31 6 ≠ 0 ∨ 0x7 ≤ (v.extractLsb 3 0).toNat
        ∨ ((v.extractLsb 3 0).toNat ∈ [0x0, 0x2, 0x5, 0x6] ∧ v.extractLsb 5 4 ≠ 0))
    ∧ ((∃ why, decode v = .illegal why) ↔
      v ∉ ([0x00, 0x01, 0x11, 0x21, 0x31, 0x02, 0x03, 0x13, 0x23, 0x33, 0x04, 0x14, 0x24, 0x34, 0x05, 0x06] : List Word))
    ∧ ((∃ why, decode v = .illegal why) → ∀ s : State, execute v s = .next (s.setStatus 0x00000010))

/-- A few command words written out from format C: one of each row, and illegal ones (30_encoding.md sections 1, 3).
Which reason an illegal word is given is the model's choice (notes/assumptions/20.md). -/
def Obligations.SampleCommandWordsDecode : Prop :=
  decode 0x00000000 = .command .nop ∧ decode 0x00000031 = .command (.dcap .rl) ∧ decode 0x00000002 = .command .dcapa
    ∧ decode 0x00000013 = .command (.pidu .fr) ∧ decode 0x00000024 = .command (.pidi .rr)
    ∧ decode 0x00000005 = .command .mix ∧ decode 0x00000006 = .command .mixc
    ∧ decode 0x00000012 = .illegal .wheelNotZero ∧ decode 0x00000007 = .illegal .undefinedFunc
    ∧ decode 0x80000001 = .illegal .reservedBits

/-! ## The step and the port -/

/-- R91: a word written to CMD is executed completely in the step of its write; the input is consumed and nothing else
is done around the command.  The second clause says the same of the model's placing of a next command
(notes/assumptions/14.md). -/
def Obligations.StepRunsTheDecodedCommand : Prop :=
  (∀ (s : State) (v : Word) (rest : List Input) (i : Instr), s.params.legal = true →
    s.inputs = .live (.portWrite 0x00 v) :: rest → decode v = .command i → step s = exec i (s.setInputs rest))
  ∧ (∀ (s : State) (w : Nat) (i : Instr), s.params.legal = true → decodeTableWord 32 w = some i →
    step (s.withFetchWord 32 w) = exec i s)

/-- R182: an illegal command word writes STATUS <- ILL and changes nothing else, and the corner cases of the rule are
illegal words. -/
def Obligations.IllegalWordReportsIllAndNothingElse : Prop :=
  (∀ (s : State) (v : Word) (rest : List Input) (why : IllegalWord), s.params.legal = true →
    s.inputs = .live (.portWrite 0x00 v) :: rest → decode v = .illegal why →
    ∃ t, step s = .next t ∧ t.status = 0x00000010 ∧ (s.setInputs rest).unchangedExcept t [.status])
  ∧ (∀ v ∈ ([0x80000001, 0x00000007, 0x0000000F, 0x00000012, 0x00000041] : List Word), ∃ why, decode v = .illegal why)

/-- R62, R28: a port read returns the register its address names, 0 for CMD and for a reserved word, and changes no
state: the value goes to the host. -/
def Obligations.PortReadFollowsTheRegisterMap : Prop :=
  (∀ (s : State) (a : PortAddr) (rest : List Input), s.params.legal = true →
    s.inputs = .live (.portRead a) :: rest →
    step s = .next ((s.setInputs rest).giveReply (portRead a s)))
  ∧ (∀ s : State, portRead 0x00 s = 0 ∧ portRead 0x01 s = s.status ∧ portRead 0x02 s = s.arg0
    ∧ portRead 0x03 s = s.arg1 ∧ portRead 0x04 s = s.arg2 ∧ portRead 0x05 s = s.res0 ∧ portRead 0x06 s = s.res1
    ∧ portRead 0x07 s = s.res2 ∧ portRead 0x08 s = s.res3)
  ∧ (∀ (s : State) (w : Wheel), ∀ base : Nat, base = 0x10 * (w.index.toNat + 1) →
    portRead (BitVec.ofNat 7 (base + 0x0)) s = (s.wheel w).abs
    ∧ portRead (BitVec.ofNat 7 (base + 0x1)) s = (s.wheel w).pend
    ∧ portRead (BitVec.ofNat 7 (base + 0x2)) s = (s.wheel w).kp
    ∧ portRead (BitVec.ofNat 7 (base + 0x3)) s = (s.wheel w).ki
    ∧ portRead (BitVec.ofNat 7 (base + 0x4)) s = (s.wheel w).kd
    ∧ portRead (BitVec.ofNat 7 (base + 0x5)) s = (s.wheel w).alpha
    ∧ portRead (BitVec.ofNat 7 (base + 0x6)) s = (s.wheel w).outMin
    ∧ portRead (BitVec.ofNat 7 (base + 0x7)) s = (s.wheel w).outMax
    ∧ portRead (BitVec.ofNat 7 (base + 0x8)) s = (s.wheel w).integ
    ∧ portRead (BitVec.ofNat 7 (base + 0x9)) s = (s.wheel w).prevErr
    ∧ portRead (BitVec.ofNat 7 (base + 0xA)) s = (s.wheel w).filtD
    ∧ portRead (BitVec.ofNat 7 (base + 0xB)) s = (s.wheel w).lastOut)
  ∧ (∀ (s : State) (a : PortAddr),
    (0x09 ≤ a.toNat ∧ a.toNat ≤ 0x0F) ∨ (0x10 ≤ a.toNat ∧ a.toNat ≤ 0x4F ∧ 0xC ≤ a.toNat % 0x10) ∨ 0x50 ≤ a.toNat →
    portRead a s = 0)
  ∧ (∀ r : Reg, Reg.ofAddr r.addr = some r)

/-- R39: a reserved word holds no state: a read returns 0 and a write is ignored. -/
def Obligations.ReservedWordsHoldNoState : Prop :=
  ∀ (s : State) (a : PortAddr) (v : Word) (rest : List Input), s.params.legal = true →
    (0x09 ≤ a.toNat ∧ a.toNat ≤ 0x0F) ∨ (0x10 ≤ a.toNat ∧ a.toNat ≤ 0x4F ∧ 0xC ≤ a.toNat % 0x10) ∨ 0x50 ≤ a.toNat →
    (s.inputs = .live (.portRead a) :: rest →
      step s = .next ((s.setInputs rest).giveReply 0))
    ∧ (s.inputs = .live (.portWrite a v) :: rest → step s = .next (s.setInputs rest))

/-- R63: a port write runs the command of CMD, stores into ARG0 to ARG2, and has no effect at any other address. -/
def Obligations.PortWriteActsOnCmdAndArgsOnly : Prop :=
  ∀ (s : State) (a : PortAddr) (v : Word) (rest : List Input), s.params.legal = true →
    s.inputs = .live (.portWrite a v) :: rest →
    (a = 0x00 → step s = execute v (s.setInputs rest))
    ∧ (a = 0x02 → step s = .next ((s.setInputs rest).setArg0 v))
    ∧ (a = 0x03 → step s = .next ((s.setInputs rest).setArg1 v))
    ∧ (a = 0x04 → step s = .next ((s.setInputs rest).setArg2 v))
    ∧ (a ≠ 0x00 ∧ a ≠ 0x02 ∧ a ≠ 0x03 ∧ a ≠ 0x04 → step s = .next (s.setInputs rest))

/-- R26: a host write stores the value unchanged and the next read returns it, no command writes an operand register,
every command but PIDU, MIX and MIXC ignores all three, and they are 0 after reset. -/
def Obligations.ArgRegistersHoldWhatTheHostWrote : Prop :=
  (∀ (s : State) (a : PortAddr) (v : Word) (rest : List Input), s.params.legal = true →
    a = 0x02 ∨ a = 0x03 ∨ a = 0x04 → s.inputs = .live (.portWrite a v) :: .live (.portRead a) :: rest →
    ∃ t, steps 2 s = .next t ∧ portRead a t = v ∧ t.replies = s.replies ++ [v] ∧ t.inputs = rest)
  ∧ (∀ (v : Word) (s t : State), execute v s = .next t → t.arg0 = s.arg0 ∧ t.arg1 = s.arg1 ∧ t.arg2 = s.arg2)
  ∧ (∀ (i : Instr) (s t : State) (x y z : Word), (∀ w, i ≠ .pidu w) → i ≠ .mix → i ≠ .mixc → exec i s = .next t →
    exec i (((s.setArg0 x).setArg1 y).setArg2 z) = .next (((t.setArg0 x).setArg1 y).setArg2 z))
  ∧ (∀ p : Params, (State.resetWith p).arg0 = 0 ∧ (State.resetWith p).arg1 = 0 ∧ (State.resetWith p).arg2 = 0)

/-- R25: every command word writes all of STATUS (the value before does not matter), each field is 1 exactly for the
commands and in the cases its row names, the reserved bits are never set, a host write of STATUS is ignored, and it is 0
after reset. -/
def Obligations.EveryCommandWritesTheWholeStatus : Prop :=
  (∀ (v x : Word) (s t t' : State), execute v s = .next t → execute v (s.setStatus x) = .next t' →
    t'.status = t.status)
  ∧ (∀ (v : Word) (s t : State), execute v s = .next t →
    (t.sat = true ↔ ∃ w, decode v = .command (.pidu w) ∧ 0 < s32 s.arg2
      ∧ ((pidUpdate (s.wheel w) (s32 s.arg0) (s32 s.arg1) (s32 s.arg2)).u > s32 (s.wheel w).outMax
        ∨ (pidUpdate (s.wheel w) (s32 s.arg0) (s32 s.arg1) (s32 s.arg2)).u < s32 (s.wheel w).outMin))
    ∧ (t.sat = true → ∀ w, (t.wheel w).integ = (s.wheel w).integ)
    ∧ (t.dtz = true ↔ ∃ w, decode v = .command (.pidu w) ∧ s32 s.arg2 ≤ 0)
    ∧ (t.norm = true ↔
      (decode v = .command .mix ∧ (mixCore (s32 s.arg0) (s32 s.arg1) (s32 s.arg2)).norm = true)
      ∨ (decode v = .command .mixc
        ∧ (mixCore (s32 s.arg0) (s32 s.arg1) (clampedW s.params (s32 s.arg0) (s32 s.arg1) (s32 s.arg2))).norm = true))
    ∧ (t.clamp = true ↔ decode v = .command .mixc
      ∧ clampHolds s.params (s32 s.arg0) (s32 s.arg1) (s32 s.arg2) = true)
    ∧ (t.ill = true ↔ ∃ why, decode v = .illegal why)
    ∧ t.status.extractLsb 31 5 = 0)
  ∧ (∀ (s : State) (v : Word) (rest : List Input), s.params.legal = true →
    s.inputs = .live (.portWrite 0x01 v) :: rest → step s = .next (s.setInputs rest))
  ∧ (∀ p : Params, (State.resetWith p).status = 0)

/-- R27: which result registers a command writes: DCAP and PIDU at most RES0, DCAPA, MIX and MIXC all four, every other
word none; a result register it does not name keeps its value; host writes are ignored; 0 after reset. -/
def Obligations.OnlyNamedResultRegistersChange : Prop :=
  (∀ (v : Word) (s t : State), execute v s = .next t →
    ((∀ i, decode v = .command i → i ≠ .dcapa ∧ i ≠ .mix ∧ i ≠ .mixc) →
      t.res1 = s.res1 ∧ t.res2 = s.res2 ∧ t.res3 = s.res3)
    ∧ ((∀ w, decode v ≠ .command (.dcap w) ∧ decode v ≠ .command (.pidu w)) → decode v ≠ .command .dcapa →
      decode v ≠ .command .mix → decode v ≠ .command .mixc → t.res0 = s.res0))
  ∧ (∀ (i : Instr) (s t t' : State) (x0 x1 x2 x3 : Word), exec i s = .next t →
    exec i (s.setRes x0 x1 x2 x3) = .next t' →
    ((∃ w, i = .dcap w ∨ i = .pidu w) → t'.res0 = t.res0)
    ∧ (i = .dcapa ∨ i = .mix ∨ i = .mixc →
      t'.res0 = t.res0 ∧ t'.res1 = t.res1 ∧ t'.res2 = t.res2 ∧ t'.res3 = t.res3))
  ∧ (∀ (s : State) (a : PortAddr) (v : Word) (rest : List Input), s.params.legal = true →
    0x05 ≤ a.toNat ∧ a.toNat ≤ 0x08 → s.inputs = .live (.portWrite a v) :: rest →
    step s = .next (s.setInputs rest))
  ∧ (∀ p : Params, (State.resetWith p).res0 = 0 ∧ (State.resetWith p).res1 = 0 ∧ (State.resetWith p).res2 = 0
    ∧ (State.resetWith p).res3 = 0)

/-! ## Capture events and delta captures -/

/-- R111, R112: a capture event adds +1 (secondary high) or -1 (secondary low) to ABS and PEND of its wheel, wrapping at
32 bits, in one step, the same for every wheel, and changes nothing else. -/
def Obligations.CaptureCountsBothCounters : Prop :=
  ∀ (s : State) (w : Wheel) (b : Bool) (rest : List Input), s.params.legal = true →
    s.inputs = .live (.capture w b) :: rest →
    ∃ t, step s = .next t
      ∧ s32 (t.wheel w).abs = wrap32 (s32 (s.wheel w).abs + (if b then 1 else -1))
      ∧ s32 (t.wheel w).pend = wrap32 (s32 (s.wheel w).pend + (if b then 1 else -1))
      ∧ ((s.wheel w).abs = 0x7FFFFFFF → b = true → (t.wheel w).abs = 0x80000000)
      ∧ ((s.wheel w).abs = 0x80000000 → b = false → (t.wheel w).abs = 0x7FFFFFFF)
      ∧ ((s.wheel w).pend = 0x7FFFFFFF → b = true → (t.wheel w).pend = 0x80000000)
      ∧ ((s.wheel w).pend = 0x80000000 → b = false → (t.wheel w).pend = 0x7FFFFFFF)
      ∧ (s.setInputs rest).unchangedExcept t [.wheel w .abs, .wheel w .pend]

/-- R115: ABS and PEND wrap modulo 2^32 with no flag, and over any run without reset a host recovers the net count from
two readings of ABS by `wrap32(later - earlier)` when fewer than 2^31 net ticks occurred. -/
def Obligations.CountersWrapAndDifferencesRecoverTicks : Prop :=
  (∀ (s : State) (w : Wheel) (b : Bool), ∀ t, perform (.capture w b) s = .next t →
    (s32 (t.wheel w).abs - s32 (s.wheel w).abs - (if b then 1 else -1)) % 4294967296 = 0
    ∧ (s32 (t.wheel w).pend - s32 (s.wheel w).pend - (if b then 1 else -1)) % 4294967296 = 0 ∧ t.status = s.status)
  ∧ (∀ (s : State) (w : Wheel) (is : List Input), s.params.legal = true → (∀ i ∈ is, i.isReset = false) →
    -2147483648 < ticks w is ∧ ticks w is < 2147483648 →
    wrap32 (s32 ((runEnd s is).wheel w).abs - s32 (s.wheel w).abs) = ticks w is)

/-- R113: a primary rising edge is exactly one capture event, with the secondary level at that edge; no other edge
changes anything.  That an edge becomes a list of inputs is the model's choice (notes/assumptions/9.md). -/
def Obligations.OnlyPrimaryRisingEdgesCount : Prop :=
  ∀ (s : State) (w : Wheel) (b : Bool),
    runEnd s (Edge.primaryFalling.inputs w b) = s ∧ runEnd s (Edge.secondaryRising.inputs w b) = s
    ∧ runEnd s (Edge.secondaryFalling.inputs w b) = s ∧ Edge.primaryRising.inputs w b = [.live (.capture w b)]
    ∧ (s.params.legal = true →
      runEnd s (Edge.primaryRising.inputs w b) = (s.setInputs []).capture w b)

/-- R121: DCAP w returns PEND[w] in RES0 and clears it in one step, writes STATUS <- 0, changes nothing else, and reads
no operand register; its word is format C with FUNC 1; a second DCAP returns 0. -/
def Obligations.DcapReturnsAndClearsTheDelta : Prop :=
  ∀ (s : State) (w : Wheel),
    (∃ t, exec (.dcap w) s = .next t ∧ t.res0 = (s.wheel w).pend ∧ (t.wheel w).pend = 0 ∧ t.status = 0
      ∧ s.unchangedExcept t [.res0, .wheel w .pend, .status]
      ∧ ∃ t2, exec (.dcap w) t = .next t2 ∧ t2.res0 = 0 ∧ t.unchangedExcept t2 [.res0])
    ∧ decode (0x00000001 ||| (w.index.zeroExtend 32 <<< 4)) = .command (.dcap w)

/-- R122: DCAPA returns the four pending deltas in RES0 to RES3 and clears all four in one step, writes STATUS <- 0 and
changes nothing else; its word is 0x00000002. -/
def Obligations.DcapaSamplesAllWheelsAtOnce : Prop :=
  (∀ s : State, ∃ t, exec .dcapa s = .next t
    ∧ t.res0 = (s.wheel .fl).pend ∧ t.res1 = (s.wheel .fr).pend ∧ t.res2 = (s.wheel .rr).pend
    ∧ t.res3 = (s.wheel .rl).pend ∧ (∀ w, (t.wheel w).pend = 0) ∧ t.status = 0
    ∧ s.unchangedExcept t [.res0, .res1, .res2, .res3, .wheel .fl .pend, .wheel .fr .pend, .wheel .rr .pend,
        .wheel .rl .pend, .status])
  ∧ decode 0x00000002 = .command .dcapa

/-- R72: when a CMD write and a capture event arrive at the same instant, the command's step comes first and the capture
event's step immediately after it; so a DCAP does not count the event, which stays pending.  That the tie is two inputs in
this order is the model's reading (notes/assumptions/8.md). -/
def Obligations.SimultaneousCaptureFollowsTheCommand : Prop :=
  (∀ (s t : State) (v : Word) (w : Wheel) (b : Bool) (rest : List Input), s.params.legal = true →
    s.inputs = simultaneous v w b ++ rest → execute v s = .next t →
    steps 2 s = .next ((t.setInputs rest).capture w b))
  ∧ (∀ (s : State) (w : Wheel) (rest : List Input), s.params.legal = true →
    s.inputs = simultaneous (encode (.dcap w)) w true ++ rest →
    ∃ t, steps 2 s = .next t ∧ t.res0 = (s.wheel w).pend ∧ (t.wheel w).pend = 1)

/-- R29: only a capture event of the wheel and reset change ABS[w]; a backward tick decrements it; reset makes it 0. -/
def Obligations.OnlyCaptureAndResetChangeAbs : Prop :=
  (∀ (s t : State) (w : Wheel), step s = .next t → (t.wheel w).abs ≠ (s.wheel w).abs →
    ∃ rest, (∃ b, s.inputs = .live (.capture w b) :: rest) ∨ (∃ d, s.inputs = .reset d :: rest))
  ∧ (∀ (s : State) (w : Wheel), ∃ t, perform (.capture w false) s = .next t
    ∧ s32 (t.wheel w).abs = wrap32 (s32 (s.wheel w).abs - 1))
  ∧ (∀ (s : State) (d : List Stimulus) (w : Wheel), ∃ t, accept (.reset d) s = .next t ∧ (t.wheel w).abs = 0)

/-- R31: PEND[w] changes only by a capture event of the wheel, a delta capture of the wheel (which clears it) and reset
(which clears it); a host read returns it without clearing it and a host write is ignored. -/
def Obligations.OnlyCaptureAndDeltaCaptureChangePend : Prop :=
  (∀ (s t : State) (w : Wheel), step s = .next t → (t.wheel w).pend ≠ (s.wheel w).pend →
    ∃ i rest, s.inputs = i :: rest
      ∧ ((∃ b, i = .live (.capture w b)) ∨ (i.isDeltaCapture w = true ∧ (t.wheel w).pend = 0)
        ∨ (i.isReset = true ∧ (t.wheel w).pend = 0)))
  ∧ (∀ (s : State) (w : Wheel) (rest : List Input), s.params.legal = true →
    s.inputs = .live (.portRead (Reg.wheel w .pend).addr) :: rest →
    step s = .next ((s.setInputs rest).giveReply (s.wheel w).pend))
  ∧ (∀ (s : State) (w : Wheel) (v : Word) (rest : List Input), s.params.legal = true →
    s.inputs = .live (.portWrite (Reg.wheel w .pend).addr v) :: rest → step s = .next (s.setInputs rest))

/-- Exactly-once counting (rule R123, which the spec marks as derived from R111, R121, R122): in any run from reset, a
delta capture of wheel w returns the wrapped sum of the capture events of w since the delta capture of w before it, or
since the last reset. -/
def Obligations.EveryCaptureIsCountedExactlyOnce : Prop :=
  ∀ (p : Params) (w : Wheel) (before between : List Input) (c : Input), p.legal = true →
    (before = [] ∨ ∃ l i, before = l ++ [i] ∧ (i.isDeltaCapture w = true ∨ i.isReset = true)) →
    (∀ i ∈ between, i.isDeltaCapture w = false ∧ i.isReset = false) → c.isDeltaCapture w = true →
    ∃ t, step ((runEnd (State.resetWith p) (before ++ between)).setInputs [c]) = .next t
      ∧ runEnd (State.resetWith p) (before ++ between ++ [c]) = t
      ∧ (c.command = some (.dcap w) → s32 t.res0 = wrap32 (ticks w between))
      ∧ (c.command = some .dcapa → s32 (t.resOf w) = wrap32 (ticks w between))

/-- The counting invariant (rule R125, which the spec marks as derived): in any run since reset, ABS[w] is the wrapped
sum of PEND[w] and all values that delta captures of w returned. -/
def Obligations.AbsIsPendingPlusReturned : Prop :=
  ∀ (p : Params) (w : Wheel) (is : List Input), p.legal = true → (∀ i ∈ is, i.isReset = false) →
    s32 ((runEnd (State.resetWith p) is).wheel w).abs
      = wrap32 (s32 ((runEnd (State.resetWith p) is).wheel w).pend + returnedSum w (runTrace (State.resetWith p) is))

/-- Exactly-once counting, one step at a time (behind R123, which the spec marks as derived), from every state whose
PEND[w] is the wrapped count `n`: an idle step keeps the count, a live step that is no delta capture of w adds its tick,
a delta capture of w returns the count and starts again at 0, reset starts again at 0. -/
def Obligations.EveryStepKeepsThePendingCount : Prop :=
  ∀ (s t : State) (w : Wheel) (n : Int), step s = .next t → s32 (s.wheel w).pend = wrap32 n →
    (s.inputs = [] → s32 (t.wheel w).pend = wrap32 n)
    ∧ ∀ (i : Input) (rest : List Input), s.inputs = i :: rest →
      (i.isReset = false → i.isDeltaCapture w = false → s32 (t.wheel w).pend = wrap32 (n + ticks w [i]))
      ∧ (i.isDeltaCapture w = true → s32 (t.wheel w).pend = 0
        ∧ (i.command = some (.dcap w) → s32 t.res0 = wrap32 n)
        ∧ (i.command = some .dcapa → s32 (t.resOf w) = wrap32 n))
      ∧ (i.isReset = true → s32 (t.wheel w).pend = 0)

/-- The counting invariant, one step at a time (behind R125, which the spec marks as derived): from every state with
ABS[w] = wrap32(PEND[w] + c), an idle step keeps it with `c`, every other step but reset leaves it with `c` plus what a
delta capture of w returned, and reset leaves it with 0, as every reset state has it. -/
def Obligations.EveryStepKeepsTheCountingInvariant : Prop :=
  (∀ (p : Params) (w : Wheel),
    s32 ((State.resetWith p).wheel w).abs = wrap32 (s32 ((State.resetWith p).wheel w).pend + 0))
  ∧ ∀ (s t : State) (w : Wheel) (c : Int), step s = .next t →
    s32 (s.wheel w).abs = wrap32 (s32 (s.wheel w).pend + c) →
    (s.inputs = [] → s32 (t.wheel w).abs = wrap32 (s32 (t.wheel w).pend + c))
    ∧ ∀ (i : Input) (rest : List Input), s.inputs = i :: rest →
      (i.isReset = false →
        s32 (t.wheel w).abs = wrap32 (s32 (t.wheel w).pend + (c + returnedSum w [(i, t)])))
      ∧ (i.isReset = true → s32 (t.wheel w).abs = wrap32 (s32 (t.wheel w).pend + 0))

/-! ## PID -/

/-- R141, R142, R144, R146: PIDU w, format C with FUNC 3.  With dt <= 0 it is held; otherwise every register it writes
has the value of the algorithm on exact integers, the integral only without saturation, and STATUS is SAT or 0.
The frame: everything else is unchanged. -/
def Obligations.PiduFollowsTheAlgorithm : Prop :=
  ∀ (s : State) (w : Wheel),
    (s32 s.arg2 ≤ 0 → ∃ t, exec (.pidu w) s = .next t ∧ t.res0 = (s.wheel w).lastOut ∧ t.status = 0x00000002
      ∧ s.unchangedExcept t [.res0, .status])
    ∧ (0 < s32 s.arg2 → ∀ dt e candI rawD a fD u lo hi : Int,
      dt = s32 s.arg2 → e = sat32 (s32 s.arg0 - s32 s.arg1) → candI = sat32 (s32 (s.wheel w).integ + fmul e dt) →
      rawD = fdiv (e - s32 (s.wheel w).prevErr) dt → a = s32 (s.wheel w).alpha →
      fD = sat32 (fmul a rawD + fmul (65536 - a) (s32 (s.wheel w).filtD)) →
      u = fmul (s32 (s.wheel w).kp) e + fmul (s32 (s.wheel w).ki) candI + fmul (s32 (s.wheel w).kd) fD →
      lo = s32 (s.wheel w).outMin → hi = s32 (s.wheel w).outMax →
      ∃ t, exec (.pidu w) s = .next t
        ∧ s32 t.res0 = clampmm u lo hi ∧ s32 (t.wheel w).lastOut = clampmm u lo hi
        ∧ s32 (t.wheel w).prevErr = e ∧ s32 (t.wheel w).filtD = fD
        ∧ (u > hi ∨ u < lo → (t.wheel w).integ = (s.wheel w).integ ∧ t.status = 0x00000001)
        ∧ (¬ (u > hi ∨ u < lo) → s32 (t.wheel w).integ = candI ∧ t.status = 0)
        ∧ s.unchangedExcept t [.res0, .status, .wheel w .integ, .wheel w .prevErr, .wheel w .filtD,
            .wheel w .lastOut])
    ∧ decode (0x00000003 ||| (w.index.zeroExtend 32 <<< 4)) = .command (.pidu w)

/-- R143: with dt <= 0 a PIDU is held: RES0 receives LAST_OUT[w], STATUS receives DTZ, nothing else is written; and
over any run from reset LAST_OUT[w] is the output of the last PIDU of w that was not held since the last PIDI of w or
reset, 0 if there was none. -/
def Obligations.HeldPiduReturnsTheLastOutput : Prop :=
  (∀ (s : State) (w : Wheel), s32 s.arg2 ≤ 0 →
    ∃ t, exec (.pidu w) s = .next t ∧ t.res0 = (s.wheel w).lastOut ∧ t.status = statusDtz
      ∧ s.unchangedExcept t [.res0, .status])
  ∧ (∀ (p : Params) (w : Wheel) (is : List Input), p.legal = true →
    ((runEnd (State.resetWith p) is).wheel w).lastOut = lastOutput w (runTrace (State.resetWith p) is) 0)

/-- R145: an output saturates when it lies strictly outside a bound, the upper bound is tested first, and with OUT_MIN
above OUT_MAX every update saturates and the integral is never committed. -/
def Obligations.SaturationAtTheBounds : Prop :=
  ∀ (s : State) (w : Wheel) (u lo hi : Int), 0 < s32 s.arg2 →
    u = (pidUpdate (s.wheel w) (s32 s.arg0) (s32 s.arg1) (s32 s.arg2)).u → lo = s32 (s.wheel w).outMin →
    hi = s32 (s.wheel w).outMax →
    ∃ t, exec (.pidu w) s = .next t
      ∧ (t.sat = true ↔ u > hi ∨ u < lo)
      ∧ (u > hi → s32 t.res0 = hi) ∧ (¬ u > hi → u < lo → s32 t.res0 = lo)
      ∧ (lo ≤ u → u ≤ hi → s32 t.res0 = u)
      ∧ (hi < lo → t.sat = true ∧ (t.wheel w).integ = (s.wheel w).integ ∧ s32 t.res0 = if u > hi then hi else lo)

/-- R152: PIDI w clears INTEG, PREV_ERR, FILT_D and LAST_OUT of its wheel, writes STATUS <- 0, changes nothing else; its
word is format C with FUNC 4; a held PIDU after it returns 0. -/
def Obligations.PidiClearsOneWheelsState : Prop :=
  ∀ (s : State) (w : Wheel),
    (∃ t, exec (.pidi w) s = .next t ∧ (t.wheel w).integ = 0 ∧ (t.wheel w).prevErr = 0 ∧ (t.wheel w).filtD = 0
      ∧ (t.wheel w).lastOut = 0 ∧ t.status = 0
      ∧ s.unchangedExcept t [.wheel w .integ, .wheel w .prevErr, .wheel w .filtD, .wheel w .lastOut, .status]
      ∧ (s32 s.arg2 ≤ 0 → ∃ t2, exec (.pidu w) t = .next t2 ∧ t2.res0 = 0))
    ∧ decode (0x00000004 ||| (w.index.zeroExtend 32 <<< 4)) = .command (.pidi w)

/-- Whole-machine rule (R151, which the spec marks as derived): only PIDU w, PIDI w and reset write the PID state of
wheel w, over any run. -/
def Obligations.PidStatePersistsWithoutPidCommands : Prop :=
  ∀ (s : State) (w : Wheel) (is : List Input),
    (∀ i ∈ is, i.isReset = false ∧ i.command ≠ some (.pidu w) ∧ i.command ≠ some (.pidi w)) →
    ((runEnd s is).wheel w).integ = (s.wheel w).integ ∧ ((runEnd s is).wheel w).prevErr = (s.wheel w).prevErr
      ∧ ((runEnd s is).wheel w).filtD = (s.wheel w).filtD ∧ ((runEnd s is).wheel w).lastOut = (s.wheel w).lastOut

/-- Independence of the wheels (R131, first two sentences): PIDU w and PIDI w leave every other wheel's registers
unchanged, and what they write depends on ARG0 to ARG2 and wheel w's registers only. -/
def Obligations.PidCommandsSeeOneWheelOnly : Prop :=
  ∀ (s s' t t' : State) (w : Wheel) (i : Instr), i = .pidu w ∨ i = .pidi w → exec i s = .next t →
    (∀ w', w' ≠ w → t.wheel w' = s.wheel w')
    ∧ (exec i s' = .next t' → s'.arg0 = s.arg0 → s'.arg1 = s.arg1 → s'.arg2 = s.arg2 → s'.wheel w = s.wheel w →
      t'.wheel w = t.wheel w ∧ t'.status = t.status ∧ (i = .pidu w → t'.res0 = t.res0))

/-- Zero-error steady state (R150, second property, derived): from a cleared PID state with t = m and 0 within the
bounds, every PIDU answers exactly 0 and leaves the state cleared. -/
def Obligations.ZeroErrorGivesZeroOutput : Prop :=
  ∀ (s : State) (w : Wheel), s.arg0 = s.arg1 → (s.wheel w).integ = 0 → (s.wheel w).prevErr = 0 →
    (s.wheel w).filtD = 0 → (s.wheel w).lastOut = 0 → s32 (s.wheel w).outMin ≤ 0 → 0 ≤ s32 (s.wheel w).outMax →
    ∃ t, exec (.pidu w) s = .next t ∧ t.res0 = 0 ∧ t.sat = false ∧ (t.wheel w).integ = 0 ∧ (t.wheel w).prevErr = 0
      ∧ (t.wheel w).filtD = 0 ∧ (t.wheel w).lastOut = 0

/-- Anti-windup (R150, first property, derived): over any run without reset and PIDI w in which every PIDU of wheel w
saturates, INTEG[w] does not change. -/
def Obligations.IntegralFrozenWhileSaturated : Prop :=
  ∀ (s : State) (w : Wheel) (is : List Input),
    (∀ i ∈ is, i.isReset = false ∧ i.command ≠ some (.pidi w)) → allSaturated w (runTrace s is) →
    ((runEnd s is).wheel w).integ = (s.wheel w).integ

/-- Filter decay (R150, third property, derived): with an unchanged error and a nonzero FILT_D[w], an update strictly
decreases its magnitude, for every legal coefficient. -/
def Obligations.FilteredDerivativeDecays : Prop :=
  ∀ (s : State) (w : Wheel), 0 < s32 s.arg2 → 1 ≤ s32 (s.wheel w).alpha → s32 (s.wheel w).alpha ≤ 65536 →
    s32 (s.wheel w).prevErr = sat32 (s32 s.arg0 - s32 s.arg1) → (s.wheel w).filtD ≠ 0 →
    ∃ t, exec (.pidu w) s = .next t ∧ absInt (s32 (t.wheel w).filtD) < absInt (s32 (s.wheel w).filtD)

/-! ## Mixer -/

/-- R161 to R165, R167: MIX writes the four exact sums of the mixing matrix to RES0 to RES3 when the largest magnitude
is at most 1.0, and their quotients by it otherwise, STATUS <- NORM or 0, and nothing else; every result lies in
[-65536, 65536], every sum in [-3*2^31, 3*2^31 - 1]; its word is 0x00000005. -/
def Obligations.MixFollowsTheMatrix : Prop :=
  (∀ (s : State) (vx vy wz m0 m1 m2 m3 big : Int), vx = s32 s.arg0 → vy = s32 s.arg1 → wz = s32 s.arg2 →
    m0 = vx - vy - wz → m1 = vx + vy + wz → m2 = vx - vy + wz → m3 = vx + vy - wz →
    big = max (max |m0| |m1|) (max |m2| |m3|) →
    (∀ m ∈ [m0, m1, m2, m3], -6442450944 ≤ m ∧ m ≤ 6442450943)
    ∧ ∃ t, exec .mix s = .next t
      ∧ (big ≤ 65536 → s32 t.res0 = m0 ∧ s32 t.res1 = m1 ∧ s32 t.res2 = m2 ∧ s32 t.res3 = m3 ∧ t.status = 0)
      ∧ (65536 < big → s32 t.res0 = tdiv (m0 * 65536) big ∧ s32 t.res1 = tdiv (m1 * 65536) big
        ∧ s32 t.res2 = tdiv (m2 * 65536) big ∧ s32 t.res3 = tdiv (m3 * 65536) big ∧ t.status = 0x00000004)
      ∧ (∀ r ∈ [t.res0, t.res1, t.res2, t.res3], -65536 ≤ s32 r ∧ s32 r ≤ 65536)
      ∧ s.unchangedExcept t [.res0, .res1, .res2, .res3, .status])
  ∧ decode 0x00000005 = .command .mix

/-- R166: a normalized result is within one least-significant bit of the exact quotient, has the sign of its sum or is
0, is exactly 65536 or -65536 where the sum has the largest magnitude, and is smaller in magnitude elsewhere. -/
def Obligations.NormalizationTruncatesTowardZero : Prop :=
  ∀ m0 m1 m2 m3 big : Int, big = max (max |m0| |m1|) (max |m2| |m3|) → 65536 < big →
    (normalizeSums m0 m1 m2 m3).norm = true
    ∧ ∀ x ∈ [(m0, (normalizeSums m0 m1 m2 m3).r0), (m1, (normalizeSums m0 m1 m2 m3).r1), (m2, (normalizeSums m0 m1 m2 m3).r2),
        (m3, (normalizeSums m0 m1 m2 m3).r3)],
      x.2 = tdiv (x.1 * 65536) big
      ∧ (x.1 = big → x.2 = 65536) ∧ (x.1 = -big → x.2 = -65536) ∧ (|x.1| < big → |x.2| < 65536)
      ∧ |x.2 * big - x.1 * 65536| < big ∧ (x.2 = 0 ∨ x.2.sign = x.1.sign)

/-- R171 to R174: MIXC applies the clamp condition to the raw command and mixes with w = 0 when it holds; STATUS is NORM
and CLAMP as they hold; ARG2 keeps its value and nothing but RES and STATUS changes; CLAMP and NORM are both 1 only when
|vx| + |vy| > 1.0; its word is 0x00000006. -/
def Obligations.MixcClampsThenMixes : Prop :=
  (∀ (s : State) (vx vy wz wz2 : Int) (clamp : Prop), vx = s32 s.arg0 → vy = s32 s.arg1 → wz = s32 s.arg2 →
    (clamp ↔ |vx| < (s.params.clampVxLt.val : Int) ∧ |vy| > (s.params.clampVyGt.val : Int)
      ∧ |wz| > (s.params.clampWGt.val : Int)) →
    (clamp → wz2 = 0) → (¬ clamp → wz2 = wz) →
    ∃ t, exec .mixc s = .next t
      ∧ s32 t.res0 = (mixCore vx vy wz2).r0 ∧ s32 t.res1 = (mixCore vx vy wz2).r1
      ∧ s32 t.res2 = (mixCore vx vy wz2).r2 ∧ s32 t.res3 = (mixCore vx vy wz2).r3
      ∧ (t.clamp = true ↔ clamp) ∧ (t.norm = true ↔ (mixCore vx vy wz2).norm = true)
      ∧ t.sat = false ∧ t.dtz = false ∧ t.ill = false ∧ t.status.extractLsb 31 5 = 0
      ∧ (t.clamp = true → t.norm = true → 65536 < |vx| + |vy|)
      ∧ s.unchangedExcept t [.res0, .res1, .res2, .res3, .status])
  ∧ decode 0x00000006 = .command .mixc

/-- When the clamp does not hold, MIXC does exactly what MIX does; when it holds, MIXC does what MIX does on the operands
(vx, vy, 0), but for CLAMP in STATUS and the value kept in ARG2 (R175, derived). -/
def Obligations.MixcIsMixOnTheClampedCommand : Prop :=
  ∀ s : State,
    (clampHolds s.params (s32 s.arg0) (s32 s.arg1) (s32 s.arg2) = false → exec .mixc s = exec .mix s)
    ∧ (clampHolds s.params (s32 s.arg0) (s32 s.arg1) (s32 s.arg2) = true →
      ∃ t, exec .mix (s.setArg2 0) = .next t
        ∧ exec .mixc s = .next ((t.setArg2 s.arg2).setStatus (t.status ||| 0x00000008)))

/-- With the default thresholds each integer test is the real test on `q / 65536` (R172, derived): 0.1 and 0.3. -/
def Obligations.DefaultThresholdsAreTheRealOnes : Prop :=
  ∀ s : State, s.params = Params.default →
    ∃ t, exec .mixc s = .next t
      ∧ (t.clamp = true ↔ |s32 s.arg0| * 10 < 1 * 65536 ∧ |s32 s.arg1| * 10 > 3 * 65536
        ∧ |s32 s.arg2| * 10 > 3 * 65536)

/-! ## Control, reset and the whole machine -/

/-- R181: NOP writes STATUS <- 0 and nothing else; its word is 0x00000000 and FUNC 0 with another WHEEL is illegal. -/
def Obligations.NopClearsStatusOnly : Prop :=
  (∀ s : State, ∃ t, exec .nop s = .next t ∧ t.status = 0 ∧ s.unchangedExcept t [.status])
  ∧ decode 0x00000000 = .command .nop
  ∧ (∀ v ∈ ([0x00000010, 0x00000020, 0x00000030] : List Word), ∃ why, decode v = .illegal why)

/-- R43, R211: the reset step sets every register to its reset value, from any state. -/
def Obligations.ResetSetsEveryRegister : Prop :=
  ∀ (s : State) (d : List Stimulus) (rest : List Input), s.params.legal = true → s.inputs = .reset d :: rest →
    ∃ t, step s = .next t
      ∧ t.status = 0 ∧ t.arg0 = 0 ∧ t.arg1 = 0 ∧ t.arg2 = 0 ∧ t.res0 = 0 ∧ t.res1 = 0 ∧ t.res2 = 0 ∧ t.res3 = 0
      ∧ (∀ w, (t.wheel w).abs = 0 ∧ (t.wheel w).pend = 0 ∧ (t.wheel w).integ = 0 ∧ (t.wheel w).prevErr = 0
        ∧ (t.wheel w).filtD = 0 ∧ (t.wheel w).lastOut = 0
        ∧ (t.wheel w).kp = (s.params.wheel.get w).kp ∧ (t.wheel w).ki = (s.params.wheel.get w).ki
        ∧ (t.wheel w).kd = (s.params.wheel.get w).kd ∧ (t.wheel w).alpha = (s.params.wheel.get w).alpha
        ∧ (t.wheel w).outMin = (s.params.wheel.get w).outMin ∧ (t.wheel w).outMax = (s.params.wheel.get w).outMax)
      ∧ t.params = s.params ∧ t.inputs = rest
      ∧ ({ t with inputs := [], replies := [] } : State) = State.resetWith s.params

/-- R213: what arrives while reset is applied has no effect: events are lost and writes ignored, and each read returns
0.  It rests on the model's choice that the reset input carries what arrives, drops it and answers its reads
(notes/assumptions/6.md). -/
def Obligations.ResetDropsWhatArrivesDuringIt : Prop :=
  ∀ (s : State) (d : List Stimulus),
    ∃ t u, accept (.reset d) s = .next t ∧ accept (.reset []) s = .next u
      ∧ { t with replies := u.replies } = u
      ∧ t.replies = s.replies ++ List.replicate (d.countP fun e => match e with
          | .portRead _ => true
          | .portWrite _ _ => false
          | .capture _ _ => false) 0

/-- R7: a parameter set with an ALPHA_CFG outside [1, 65536] is refused, at elaboration and by the step, and every other
set is elaborated to its reset state.  That the step refuses it too is the model's choice (notes/assumptions/5.md). -/
def Obligations.IllegalAlphaIsRefused : Prop :=
  (∀ p : Params, (∃ w, s32 (p.wheel.get w).alpha < 1 ∨ 65536 < s32 (p.wheel.get w).alpha) →
    State.elaborate p = .refused .illegalParameters
    ∧ ∀ s : State, s.params = p → step s = .refused .illegalParameters)
  ∧ (∀ p : Params, (∀ w, 1 ≤ s32 (p.wheel.get w).alpha ∧ s32 (p.wheel.get w).alpha ≤ 65536) →
    State.elaborate p = .next (State.resetWith p))

/-- The invariant holds at the reset state of every legal parameter set, the default one among them. -/
def Obligations.ResetMeetsTheInvariant : Prop :=
  (∀ p : Params, p.legal = true → Inv (State.resetWith p)) ∧ Inv State.reset

/-- Every step keeps the invariant: legal parameters, every configuration register at its parameter (R153), and a
STATUS that some command can report (R25, R193). -/
def Obligations.EveryStepKeepsTheInvariant : Prop :=
  ∀ s t : State, Inv s → step s = .next t → Inv t ∧ t.params = s.params

/-- R191: no command, port access, capture event or reset faults or is refused, and the block goes on after it. -/
def Obligations.NoStepFaultsOrRefuses : Prop :=
  ∀ s : State, s.params.legal = true →
    (∃ t, step s = .next t ∧ t.params.legal = true) ∧ ∀ n, ∃ u, steps n s = .next u

/-- A run of the inputs `is` is what the machine does in as many steps with these inputs waiting, whatever waits behind
them: the runs that other statements speak of are the machine's. -/
def Obligations.RunsAreStepsOfTheMachine : Prop :=
  ∀ (s : State) (is rest : List Input), s.params.legal = true →
    steps is.length (s.setInputs (is ++ rest)) = .next ((runEnd s is).setInputs rest)
    ∧ (runTrace s is).map Prod.fst = is

/-- The pseudo-instructions do what their expansions say (30_encoding.md section 5): `PID` gives the host the update's
output for the operands written, `SAMPLE` the four pending deltas, `MIXV` and `MIXVC` run the mixer on the operands. -/
def Obligations.PseudoInstructionsRunTheirExpansions : Prop :=
  (∀ (s u : State) (w : Wheel) (t m dt : Word) (rest : List Input), s.params.legal = true →
    s.inputs = Asm.pid w t m dt ++ rest →
    exec (.pidu w) ((((s.setInputs rest).setArg0 t).setArg1 m).setArg2 dt) = .next u →
    steps 5 s = .next (u.giveReply u.res0))
  ∧ (∀ (s : State) (rest : List Input), s.params.legal = true → s.inputs = Asm.sample ++ rest →
    ∃ t, steps 5 s = .next t ∧ t.inputs = rest ∧ (∀ w, (t.wheel w).pend = 0)
      ∧ t.replies = s.replies ++ [(s.wheel .fl).pend, (s.wheel .fr).pend, (s.wheel .rr).pend, (s.wheel .rl).pend])
  ∧ (∀ (s : State) (vx vy wz : Word) (rest : List Input), s.params.legal = true →
    (s.inputs = Asm.mixv vx vy wz ++ rest →
      steps 4 s = exec .mix ((((s.setInputs rest).setArg0 vx).setArg1 vy).setArg2 wz))
    ∧ (s.inputs = Asm.mixvc vx vy wz ++ rest →
      steps 4 s = exec .mixc ((((s.setInputs rest).setArg0 vx).setArg1 vy).setArg2 wz)))

/-- What the arithmetic primitives compute (00_scope.md section 5): `wrap32` is the 32-bit value congruent modulo 2^32,
`sat32` the nearest 32-bit value, `tdiv` truncates toward zero with a remainder smaller than the divisor. -/
def Obligations.PrimitivesTruncateAndSaturate : Prop :=
  (∀ x : Int, -2147483648 ≤ wrap32 x ∧ wrap32 x ≤ 2147483647 ∧ (x - wrap32 x) % 4294967296 = 0)
  ∧ (∀ x y : Int, -2147483648 ≤ y → y ≤ 2147483647 →
    -2147483648 ≤ sat32 x ∧ sat32 x ≤ 2147483647 ∧ |x - sat32 x| ≤ |x - y|)
  ∧ (∀ a b : Int, b ≠ 0 → |a - tdiv a b * b| < |b| ∧ |tdiv a b * b| ≤ |a| ∧ 0 ≤ tdiv a b * (a * b))
  ∧ (∀ a b : Int, fmul a b = sat32 (Int.tdiv (a * b) 65536))
  ∧ (∀ a b : Int, b ≠ 0 → fdiv a b = sat32 (Int.tdiv (a * 65536) b))
end

