-- ==== Sys2Proof/Laws/Arith.lean ====
section
/-! SUPPORT. Laws/Arith.lean: what the arithmetic primitives of 00_scope.md R10 compute. -/

namespace Sys2Proof.Machine

/-- The integers a register can hold in two's complement. -/
def Fits (x : Int) : Prop := -2147483648 ≤ x ∧ x ≤ 2147483647

theorem s32_fits (v : Word) : Fits (s32 v) := by
  have h1 := BitVec.le_toInt v
  have h2 := BitVec.toInt_lt (x := v)
  unfold Fits s32
  omega

theorem s32_toWord (x : Int) : s32 (toWord x) = wrap32 x := by
  simp only [s32, toWord, wrap32, BitVec.toInt_ofInt, Int.bmod_def]
  omega

theorem wrap32_fits (x : Int) : Fits (wrap32 x) := by
  unfold Fits wrap32
  omega

theorem wrap32_of_fits {x : Int} (h : Fits x) : wrap32 x = x := by
  unfold Fits at h
  unfold wrap32
  omega

theorem s32_toWord_of_fits {x : Int} (h : Fits x) : s32 (toWord x) = x := by
  rw [s32_toWord, wrap32_of_fits h]

@[simp] theorem toWord_s32 (v : Word) : toWord (s32 v) = v := BitVec.ofInt_toInt

theorem s32_injective {v w : Word} (h : s32 v = s32 w) : v = w := BitVec.eq_of_toInt_eq h

@[simp] theorem s32_zero : s32 0#32 = 0 := rfl

@[simp] theorem toWord_zero : toWord 0 = 0#32 := rfl

theorem toWord_wrap32 (x : Int) : toWord (wrap32 x) = toWord x := by
  rw [← s32_toWord, toWord_s32]

theorem wrap32_congr {x y : Int} (h : x % 4294967296 = y % 4294967296) : wrap32 x = wrap32 y := by
  unfold wrap32
  omega

theorem sat32_fits (x : Int) : Fits (sat32 x) := by
  unfold Fits sat32
  omega

theorem sat32_of_fits {x : Int} (h : Fits x) : sat32 x = x := by
  unfold Fits at h
  unfold sat32
  omega

theorem absInt_eq_abs (x : Int) : absInt x = |x| := by
  unfold absInt
  split
  · next h => exact (abs_of_nonneg h).symm
  · next h => exact (abs_of_neg (by omega)).symm

theorem absInt_eq_natAbs (x : Int) : absInt x = (x.natAbs : Int) := by
  unfold absInt
  omega

theorem absInt_nonneg (x : Int) : 0 ≤ absInt x := by
  rw [absInt_eq_natAbs]
  omega

theorem signInt_eq_sign (x : Int) : signInt x = x.sign := by
  unfold signInt
  split
  · next h => exact (Int.sign_eq_one_of_pos h).symm
  · split
    · next h => subst h; rfl
    · exact (Int.sign_eq_neg_one_of_neg (by omega)).symm

/-- `tdiv` is Lean's division truncated toward zero. -/
theorem tdiv_eq (a b : Int) : tdiv a b = Int.tdiv a b := by
  unfold tdiv
  rw [signInt_eq_sign, signInt_eq_sign, absInt_eq_natAbs, absInt_eq_natAbs]
  rcases a with a | a <;> rcases b with b | b <;>
    rcases a with _ | a <;> rcases b with _ | b <;> simp [Int.tdiv, Int.sign, Int.natAbs]

theorem tdiv_zero_left (b : Int) : tdiv 0 b = 0 := by
  rw [tdiv_eq, Int.zero_tdiv]

theorem fmul_fits (a b : Int) : Fits (fmul a b) := sat32_fits _

theorem fdiv_fits (a b : Int) : Fits (fdiv a b) := sat32_fits _

@[simp] theorem fmul_zero_left (b : Int) : fmul 0 b = 0 := by
  simp [fmul, tdiv_zero_left, sat32]

@[simp] theorem fmul_zero_right (a : Int) : fmul a 0 = 0 := by
  simp [fmul, tdiv_zero_left, sat32]

@[simp] theorem fdiv_zero_left (b : Int) : fdiv 0 b = 0 := by
  simp [fdiv, tdiv_zero_left, sat32]

/-- A clamped value fits a register when the bounds do (41_pid.md R142). -/
theorem clampmm_fits {x lo hi : Int} (hlo : Fits lo) (hhi : Fits hi) : Fits (clampmm x lo hi) := by
  unfold Fits at *
  unfold clampmm
  split_ifs <;> omega

end Sys2Proof.Machine
end

