-- ==== Sys2Proof/Laws/Decode.lean ====
section
/-! SUPPORT. Laws/Decode.lean: the fields of a command word and the wheel index. -/

namespace Sys2Proof

@[simp] theorem Wheel.ofIndex_index (w : Wheel) : Wheel.ofIndex w.index = w := by
  cases w <;> rfl

@[simp] theorem Wheel.index_ofIndex (i : BitVec 2) : (Wheel.ofIndex i).index = i := by
  revert i
  decide

/-- A word is made of its three fields (30_encoding.md R92). -/
@[simp] theorem CommandFields.toWord_ofWord (v : Word) : (CommandFields.ofWord v).toWord = v := by
  unfold CommandFields.ofWord CommandFields.toWord
  refine BitVec.eq_of_getLsbD_eq fun i hi => ?_
  simp only [BitVec.getLsbD_append, BitVec.getLsbD_extractLsb]
  rcases Nat.lt_or_ge i 4 with h4 | h4
  · simp [h4]
  · rcases Nat.lt_or_ge i 6 with h6 | h6
    · have : i - 4 < 2 := by omega
      simp [Nat.not_lt.mpr h4, this, Nat.add_sub_cancel' h4]
    · have : ¬ i - 4 < 2 := by omega
      have e : 6 + (i - 4 - 2) = i := by omega
      simp [Nat.not_lt.mpr h4, this, e]
      omega

/-- The fields of a word made of three fields are these fields (R92). -/
@[simp] theorem CommandFields.ofWord_toWord (f : CommandFields) : CommandFields.ofWord f.toWord = f := by
  obtain ⟨func, wheel, rsvd⟩ := f
  unfold CommandFields.ofWord CommandFields.toWord
  congr 1 <;> refine BitVec.eq_of_getLsbD_eq fun i hi => ?_ <;>
    simp only [BitVec.getLsbD_append, BitVec.getLsbD_extractLsb]
  · simp [hi]
  · simp [hi]
  · have e : 6 + i - 4 - 2 = i := by omega
    have hn : ¬ (6 + i - 4 < 2) := by omega
    have hf : ¬ (6 + i < 4) := by omega
    simp [e, hn, hi, hf]

@[simp] theorem fields_encode (i : Instr) : CommandFields.ofWord (encode i) = i.fields :=
  CommandFields.ofWord_toWord _

theorem decode_eq_decoded (v : Word) : decode v = (CommandFields.ofWord v).decoded := rfl

theorem decode_toWord (f : CommandFields) : decode f.toWord = f.decoded := by
  rw [decode_eq_decoded, CommandFields.ofWord_toWord]

theorem CommandFields.decoded_of_rsvd_ne {f : CommandFields} (h : f.rsvd ≠ 0) :
    f.decoded = .illegal .reservedBits :=
  if_pos h

theorem Instr.fields_rsvd (i : Instr) : i.fields.rsvd = 0 := by
  cases i <;> rfl

end Sys2Proof
end

