-- ==== Sys2Proof/Laws/State.lean ====
section
/-! SUPPORT. Laws/State.lean: one lemma per field per update of the state, and the reads of the per-wheel registers
after an update, so that no later proof unfolds a record update. -/

namespace Sys2Proof

/-! ## Per-wheel values -/

@[simp] theorem PerWheel.get_set_self {α : Type} (p : PerWheel α) (w : Wheel) (v : α) : (p.set w v).get w = v := by
  cases w <;> rfl

theorem PerWheel.get_set_of_ne {α : Type} (p : PerWheel α) {w w' : Wheel} (v : α) (h : w' ≠ w) :
    (p.set w v).get w' = p.get w' := by
  cases w <;> cases w' <;> first | rfl | exact absurd rfl h

@[simp] theorem PerWheel.get_map {α β : Type} (f : α → β) (p : PerWheel α) (w : Wheel) :
    (p.map f).get w = f (p.get w) := by
  cases w <;> rfl

end Sys2Proof

namespace Sys2Proof.Machine

variable (s : State)

/-! ## `setInputs` -/

@[simp] theorem State.setInputs_params (is : List Input) : (s.setInputs is).params = s.params := rfl
@[simp] theorem State.setInputs_status (is : List Input) : (s.setInputs is).status = s.status := rfl
@[simp] theorem State.setInputs_arg0 (is : List Input) : (s.setInputs is).arg0 = s.arg0 := rfl
@[simp] theorem State.setInputs_arg1 (is : List Input) : (s.setInputs is).arg1 = s.arg1 := rfl
@[simp] theorem State.setInputs_arg2 (is : List Input) : (s.setInputs is).arg2 = s.arg2 := rfl
@[simp] theorem State.setInputs_res0 (is : List Input) : (s.setInputs is).res0 = s.res0 := rfl
@[simp] theorem State.setInputs_res1 (is : List Input) : (s.setInputs is).res1 = s.res1 := rfl
@[simp] theorem State.setInputs_res2 (is : List Input) : (s.setInputs is).res2 = s.res2 := rfl
@[simp] theorem State.setInputs_res3 (is : List Input) : (s.setInputs is).res3 = s.res3 := rfl
@[simp] theorem State.setInputs_wheels (is : List Input) : (s.setInputs is).wheels = s.wheels := rfl
@[simp] theorem State.setInputs_inputs (is : List Input) : (s.setInputs is).inputs = is := rfl
@[simp] theorem State.setInputs_replies (is : List Input) : (s.setInputs is).replies = s.replies := rfl

@[simp] theorem State.wheel_setInputs (is : List Input) (w : Wheel) : (s.setInputs is).wheel w = s.wheel w := rfl

/-! ## `setStatus` -/

@[simp] theorem State.setStatus_params (v : Word) : (s.setStatus v).params = s.params := rfl
@[simp] theorem State.setStatus_status (v : Word) : (s.setStatus v).status = v := rfl
@[simp] theorem State.setStatus_arg0 (v : Word) : (s.setStatus v).arg0 = s.arg0 := rfl
@[simp] theorem State.setStatus_arg1 (v : Word) : (s.setStatus v).arg1 = s.arg1 := rfl
@[simp] theorem State.setStatus_arg2 (v : Word) : (s.setStatus v).arg2 = s.arg2 := rfl
@[simp] theorem State.setStatus_res0 (v : Word) : (s.setStatus v).res0 = s.res0 := rfl
@[simp] theorem State.setStatus_res1 (v : Word) : (s.setStatus v).res1 = s.res1 := rfl
@[simp] theorem State.setStatus_res2 (v : Word) : (s.setStatus v).res2 = s.res2 := rfl
@[simp] theorem State.setStatus_res3 (v : Word) : (s.setStatus v).res3 = s.res3 := rfl
@[simp] theorem State.setStatus_wheels (v : Word) : (s.setStatus v).wheels = s.wheels := rfl
@[simp] theorem State.setStatus_inputs (v : Word) : (s.setStatus v).inputs = s.inputs := rfl
@[simp] theorem State.setStatus_replies (v : Word) : (s.setStatus v).replies = s.replies := rfl

@[simp] theorem State.wheel_setStatus (v : Word) (w : Wheel) : (s.setStatus v).wheel w = s.wheel w := rfl

/-! ## `setArg0` -/

@[simp] theorem State.setArg0_params (v : Word) : (s.setArg0 v).params = s.params := rfl
@[simp] theorem State.setArg0_status (v : Word) : (s.setArg0 v).status = s.status := rfl
@[simp] theorem State.setArg0_arg0 (v : Word) : (s.setArg0 v).arg0 = v := rfl
@[simp] theorem State.setArg0_arg1 (v : Word) : (s.setArg0 v).arg1 = s.arg1 := rfl
@[simp] theorem State.setArg0_arg2 (v : Word) : (s.setArg0 v).arg2 = s.arg2 := rfl
@[simp] theorem State.setArg0_res0 (v : Word) : (s.setArg0 v).res0 = s.res0 := rfl
@[simp] theorem State.setArg0_res1 (v : Word) : (s.setArg0 v).res1 = s.res1 := rfl
@[simp] theorem State.setArg0_res2 (v : Word) : (s.setArg0 v).res2 = s.res2 := rfl
@[simp] theorem State.setArg0_res3 (v : Word) : (s.setArg0 v).res3 = s.res3 := rfl
@[simp] theorem State.setArg0_wheels (v : Word) : (s.setArg0 v).wheels = s.wheels := rfl
@[simp] theorem State.setArg0_inputs (v : Word) : (s.setArg0 v).inputs = s.inputs := rfl
@[simp] theorem State.setArg0_replies (v : Word) : (s.setArg0 v).replies = s.replies := rfl

@[simp] theorem State.wheel_setArg0 (v : Word) (w : Wheel) : (s.setArg0 v).wheel w = s.wheel w := rfl

/-! ## `setArg1` -/

@[simp] theorem State.setArg1_params (v : Word) : (s.setArg1 v).params = s.params := rfl
@[simp] theorem State.setArg1_status (v : Word) : (s.setArg1 v).status = s.status := rfl
@[simp] theorem State.setArg1_arg0 (v : Word) : (s.setArg1 v).arg0 = s.arg0 := rfl
@[simp] theorem State.setArg1_arg1 (v : Word) : (s.setArg1 v).arg1 = v := rfl
@[simp] theorem State.setArg1_arg2 (v : Word) : (s.setArg1 v).arg2 = s.arg2 := rfl
@[simp] theorem State.setArg1_res0 (v : Word) : (s.setArg1 v).res0 = s.res0 := rfl
@[simp] theorem State.setArg1_res1 (v : Word) : (s.setArg1 v).res1 = s.res1 := rfl
@[simp] theorem State.setArg1_res2 (v : Word) : (s.setArg1 v).res2 = s.res2 := rfl
@[simp] theorem State.setArg1_res3 (v : Word) : (s.setArg1 v).res3 = s.res3 := rfl
@[simp] theorem State.setArg1_wheels (v : Word) : (s.setArg1 v).wheels = s.wheels := rfl
@[simp] theorem State.setArg1_inputs (v : Word) : (s.setArg1 v).inputs = s.inputs := rfl
@[simp] theorem State.setArg1_replies (v : Word) : (s.setArg1 v).replies = s.replies := rfl

@[simp] theorem State.wheel_setArg1 (v : Word) (w : Wheel) : (s.setArg1 v).wheel w = s.wheel w := rfl

/-! ## `setArg2` -/

@[simp] theorem State.setArg2_params (v : Word) : (s.setArg2 v).params = s.params := rfl
@[simp] theorem State.setArg2_status (v : Word) : (s.setArg2 v).status = s.status := rfl
@[simp] theorem State.setArg2_arg0 (v : Word) : (s.setArg2 v).arg0 = s.arg0 := rfl
@[simp] theorem State.setArg2_arg1 (v : Word) : (s.setArg2 v).arg1 = s.arg1 := rfl
@[simp] theorem State.setArg2_arg2 (v : Word) : (s.setArg2 v).arg2 = v := rfl
@[simp] theorem State.setArg2_res0 (v : Word) : (s.setArg2 v).res0 = s.res0 := rfl
@[simp] theorem State.setArg2_res1 (v : Word) : (s.setArg2 v).res1 = s.res1 := rfl
@[simp] theorem State.setArg2_res2 (v : Word) : (s.setArg2 v).res2 = s.res2 := rfl
@[simp] theorem State.setArg2_res3 (v : Word) : (s.setArg2 v).res3 = s.res3 := rfl
@[simp] theorem State.setArg2_wheels (v : Word) : (s.setArg2 v).wheels = s.wheels := rfl
@[simp] theorem State.setArg2_inputs (v : Word) : (s.setArg2 v).inputs = s.inputs := rfl
@[simp] theorem State.setArg2_replies (v : Word) : (s.setArg2 v).replies = s.replies := rfl

@[simp] theorem State.wheel_setArg2 (v : Word) (w : Wheel) : (s.setArg2 v).wheel w = s.wheel w := rfl

/-! ## `setRes0` -/

@[simp] theorem State.setRes0_params (v : Word) : (s.setRes0 v).params = s.params := rfl
@[simp] theorem State.setRes0_status (v : Word) : (s.setRes0 v).status = s.status := rfl
@[simp] theorem State.setRes0_arg0 (v : Word) : (s.setRes0 v).arg0 = s.arg0 := rfl
@[simp] theorem State.setRes0_arg1 (v : Word) : (s.setRes0 v).arg1 = s.arg1 := rfl
@[simp] theorem State.setRes0_arg2 (v : Word) : (s.setRes0 v).arg2 = s.arg2 := rfl
@[simp] theorem State.setRes0_res0 (v : Word) : (s.setRes0 v).res0 = v := rfl
@[simp] theorem State.setRes0_res1 (v : Word) : (s.setRes0 v).res1 = s.res1 := rfl
@[simp] theorem State.setRes0_res2 (v : Word) : (s.setRes0 v).res2 = s.res2 := rfl
@[simp] theorem State.setRes0_res3 (v : Word) : (s.setRes0 v).res3 = s.res3 := rfl
@[simp] theorem State.setRes0_wheels (v : Word) : (s.setRes0 v).wheels = s.wheels := rfl
@[simp] theorem State.setRes0_inputs (v : Word) : (s.setRes0 v).inputs = s.inputs := rfl
@[simp] theorem State.setRes0_replies (v : Word) : (s.setRes0 v).replies = s.replies := rfl

@[simp] theorem State.wheel_setRes0 (v : Word) (w : Wheel) : (s.setRes0 v).wheel w = s.wheel w := rfl

/-! ## `setRes` -/

@[simp] theorem State.setRes_params (v0 v1 v2 v3 : Word) : (s.setRes v0 v1 v2 v3).params = s.params := rfl
@[simp] theorem State.setRes_status (v0 v1 v2 v3 : Word) : (s.setRes v0 v1 v2 v3).status = s.status := rfl
@[simp] theorem State.setRes_arg0 (v0 v1 v2 v3 : Word) : (s.setRes v0 v1 v2 v3).arg0 = s.arg0 := rfl
@[simp] theorem State.setRes_arg1 (v0 v1 v2 v3 : Word) : (s.setRes v0 v1 v2 v3).arg1 = s.arg1 := rfl
@[simp] theorem State.setRes_arg2 (v0 v1 v2 v3 : Word) : (s.setRes v0 v1 v2 v3).arg2 = s.arg2 := rfl
@[simp] theorem State.setRes_res0 (v0 v1 v2 v3 : Word) : (s.setRes v0 v1 v2 v3).res0 = v0 := rfl
@[simp] theorem State.setRes_res1 (v0 v1 v2 v3 : Word) : (s.setRes v0 v1 v2 v3).res1 = v1 := rfl
@[simp] theorem State.setRes_res2 (v0 v1 v2 v3 : Word) : (s.setRes v0 v1 v2 v3).res2 = v2 := rfl
@[simp] theorem State.setRes_res3 (v0 v1 v2 v3 : Word) : (s.setRes v0 v1 v2 v3).res3 = v3 := rfl
@[simp] theorem State.setRes_wheels (v0 v1 v2 v3 : Word) : (s.setRes v0 v1 v2 v3).wheels = s.wheels := rfl
@[simp] theorem State.setRes_inputs (v0 v1 v2 v3 : Word) : (s.setRes v0 v1 v2 v3).inputs = s.inputs := rfl
@[simp] theorem State.setRes_replies (v0 v1 v2 v3 : Word) : (s.setRes v0 v1 v2 v3).replies = s.replies := rfl

@[simp] theorem State.wheel_setRes (v0 v1 v2 v3 : Word) (w : Wheel) : (s.setRes v0 v1 v2 v3).wheel w = s.wheel w := rfl

/-! ## `setWheel` -/

@[simp] theorem State.setWheel_params (w : Wheel) (r : WheelRegs) : (s.setWheel w r).params = s.params := rfl
@[simp] theorem State.setWheel_status (w : Wheel) (r : WheelRegs) : (s.setWheel w r).status = s.status := rfl
@[simp] theorem State.setWheel_arg0 (w : Wheel) (r : WheelRegs) : (s.setWheel w r).arg0 = s.arg0 := rfl
@[simp] theorem State.setWheel_arg1 (w : Wheel) (r : WheelRegs) : (s.setWheel w r).arg1 = s.arg1 := rfl
@[simp] theorem State.setWheel_arg2 (w : Wheel) (r : WheelRegs) : (s.setWheel w r).arg2 = s.arg2 := rfl
@[simp] theorem State.setWheel_res0 (w : Wheel) (r : WheelRegs) : (s.setWheel w r).res0 = s.res0 := rfl
@[simp] theorem State.setWheel_res1 (w : Wheel) (r : WheelRegs) : (s.setWheel w r).res1 = s.res1 := rfl
@[simp] theorem State.setWheel_res2 (w : Wheel) (r : WheelRegs) : (s.setWheel w r).res2 = s.res2 := rfl
@[simp] theorem State.setWheel_res3 (w : Wheel) (r : WheelRegs) : (s.setWheel w r).res3 = s.res3 := rfl
@[simp] theorem State.setWheel_wheels (w : Wheel) (r : WheelRegs) : (s.setWheel w r).wheels = s.wheels.set w r := rfl
@[simp] theorem State.setWheel_inputs (w : Wheel) (r : WheelRegs) : (s.setWheel w r).inputs = s.inputs := rfl
@[simp] theorem State.setWheel_replies (w : Wheel) (r : WheelRegs) : (s.setWheel w r).replies = s.replies := rfl

/-! ## `clearAllPend` -/

@[simp] theorem State.clearAllPend_params : (s.clearAllPend).params = s.params := rfl
@[simp] theorem State.clearAllPend_status : (s.clearAllPend).status = s.status := rfl
@[simp] theorem State.clearAllPend_arg0 : (s.clearAllPend).arg0 = s.arg0 := rfl
@[simp] theorem State.clearAllPend_arg1 : (s.clearAllPend).arg1 = s.arg1 := rfl
@[simp] theorem State.clearAllPend_arg2 : (s.clearAllPend).arg2 = s.arg2 := rfl
@[simp] theorem State.clearAllPend_res0 : (s.clearAllPend).res0 = s.res0 := rfl
@[simp] theorem State.clearAllPend_res1 : (s.clearAllPend).res1 = s.res1 := rfl
@[simp] theorem State.clearAllPend_res2 : (s.clearAllPend).res2 = s.res2 := rfl
@[simp] theorem State.clearAllPend_res3 : (s.clearAllPend).res3 = s.res3 := rfl
@[simp] theorem State.clearAllPend_wheels : (s.clearAllPend).wheels = s.wheels.map WheelRegs.clearPend := rfl
@[simp] theorem State.clearAllPend_inputs : (s.clearAllPend).inputs = s.inputs := rfl
@[simp] theorem State.clearAllPend_replies : (s.clearAllPend).replies = s.replies := rfl

/-! ## `giveReply` -/

@[simp] theorem State.giveReply_params (v : Word) : (s.giveReply v).params = s.params := rfl
@[simp] theorem State.giveReply_status (v : Word) : (s.giveReply v).status = s.status := rfl
@[simp] theorem State.giveReply_arg0 (v : Word) : (s.giveReply v).arg0 = s.arg0 := rfl
@[simp] theorem State.giveReply_arg1 (v : Word) : (s.giveReply v).arg1 = s.arg1 := rfl
@[simp] theorem State.giveReply_arg2 (v : Word) : (s.giveReply v).arg2 = s.arg2 := rfl
@[simp] theorem State.giveReply_res0 (v : Word) : (s.giveReply v).res0 = s.res0 := rfl
@[simp] theorem State.giveReply_res1 (v : Word) : (s.giveReply v).res1 = s.res1 := rfl
@[simp] theorem State.giveReply_res2 (v : Word) : (s.giveReply v).res2 = s.res2 := rfl
@[simp] theorem State.giveReply_res3 (v : Word) : (s.giveReply v).res3 = s.res3 := rfl
@[simp] theorem State.giveReply_wheels (v : Word) : (s.giveReply v).wheels = s.wheels := rfl
@[simp] theorem State.giveReply_inputs (v : Word) : (s.giveReply v).inputs = s.inputs := rfl
@[simp] theorem State.giveReply_replies (v : Word) : (s.giveReply v).replies = s.replies ++ [v] := rfl

@[simp] theorem State.wheel_giveReply (v : Word) (w : Wheel) : (s.giveReply v).wheel w = s.wheel w := rfl

@[simp] theorem State.wheel_setWheel_self (w : Wheel) (r : WheelRegs) : (s.setWheel w r).wheel w = r :=
  PerWheel.get_set_self ..

theorem State.wheel_setWheel_of_ne {w w' : Wheel} (r : WheelRegs) (h : w' ≠ w) :
    (s.setWheel w r).wheel w' = s.wheel w' :=
  PerWheel.get_set_of_ne _ _ h

theorem State.wheel_setWheel (w w' : Wheel) (r : WheelRegs) :
    (s.setWheel w r).wheel w' = if w' = w then r else s.wheel w' := by
  split
  · next h => subst h; simp
  · next h => exact State.wheel_setWheel_of_ne s r h

@[simp] theorem State.wheel_clearAllPend (w : Wheel) : s.clearAllPend.wheel w = (s.wheel w).clearPend :=
  PerWheel.get_map ..

@[simp] theorem State.wheel_resetWith (p : Params) (w : Wheel) :
    (State.resetWith p).wheel w = WheelRegs.resetWith (p.wheel.get w) :=
  PerWheel.get_map ..

/-! ## Operations on one wheel's registers -/

variable (k : WheelRegs)

@[simp] theorem WheelRegs.count_abs (b : Bool) : (k.count b).abs = toWord (wrap32 (s32 k.abs + tick b)) := rfl
@[simp] theorem WheelRegs.count_pend (b : Bool) : (k.count b).pend = toWord (wrap32 (s32 k.pend + tick b)) := rfl
@[simp] theorem WheelRegs.count_kp (b : Bool) : (k.count b).kp = k.kp := rfl
@[simp] theorem WheelRegs.count_ki (b : Bool) : (k.count b).ki = k.ki := rfl
@[simp] theorem WheelRegs.count_kd (b : Bool) : (k.count b).kd = k.kd := rfl
@[simp] theorem WheelRegs.count_alpha (b : Bool) : (k.count b).alpha = k.alpha := rfl
@[simp] theorem WheelRegs.count_outMin (b : Bool) : (k.count b).outMin = k.outMin := rfl
@[simp] theorem WheelRegs.count_outMax (b : Bool) : (k.count b).outMax = k.outMax := rfl
@[simp] theorem WheelRegs.count_integ (b : Bool) : (k.count b).integ = k.integ := rfl
@[simp] theorem WheelRegs.count_prevErr (b : Bool) : (k.count b).prevErr = k.prevErr := rfl
@[simp] theorem WheelRegs.count_filtD (b : Bool) : (k.count b).filtD = k.filtD := rfl
@[simp] theorem WheelRegs.count_lastOut (b : Bool) : (k.count b).lastOut = k.lastOut := rfl

@[simp] theorem WheelRegs.clearPend_abs : (k.clearPend).abs = k.abs := rfl
@[simp] theorem WheelRegs.clearPend_pend : (k.clearPend).pend = 0 := rfl
@[simp] theorem WheelRegs.clearPend_kp : (k.clearPend).kp = k.kp := rfl
@[simp] theorem WheelRegs.clearPend_ki : (k.clearPend).ki = k.ki := rfl
@[simp] theorem WheelRegs.clearPend_kd : (k.clearPend).kd = k.kd := rfl
@[simp] theorem WheelRegs.clearPend_alpha : (k.clearPend).alpha = k.alpha := rfl
@[simp] theorem WheelRegs.clearPend_outMin : (k.clearPend).outMin = k.outMin := rfl
@[simp] theorem WheelRegs.clearPend_outMax : (k.clearPend).outMax = k.outMax := rfl
@[simp] theorem WheelRegs.clearPend_integ : (k.clearPend).integ = k.integ := rfl
@[simp] theorem WheelRegs.clearPend_prevErr : (k.clearPend).prevErr = k.prevErr := rfl
@[simp] theorem WheelRegs.clearPend_filtD : (k.clearPend).filtD = k.filtD := rfl
@[simp] theorem WheelRegs.clearPend_lastOut : (k.clearPend).lastOut = k.lastOut := rfl

@[simp] theorem WheelRegs.afterUpdate_abs (p : PidUpdate) : (k.afterUpdate p).abs = k.abs := rfl
@[simp] theorem WheelRegs.afterUpdate_pend (p : PidUpdate) : (k.afterUpdate p).pend = k.pend := rfl
@[simp] theorem WheelRegs.afterUpdate_kp (p : PidUpdate) : (k.afterUpdate p).kp = k.kp := rfl
@[simp] theorem WheelRegs.afterUpdate_ki (p : PidUpdate) : (k.afterUpdate p).ki = k.ki := rfl
@[simp] theorem WheelRegs.afterUpdate_kd (p : PidUpdate) : (k.afterUpdate p).kd = k.kd := rfl
@[simp] theorem WheelRegs.afterUpdate_alpha (p : PidUpdate) : (k.afterUpdate p).alpha = k.alpha := rfl
@[simp] theorem WheelRegs.afterUpdate_outMin (p : PidUpdate) : (k.afterUpdate p).outMin = k.outMin := rfl
@[simp] theorem WheelRegs.afterUpdate_outMax (p : PidUpdate) : (k.afterUpdate p).outMax = k.outMax := rfl
@[simp] theorem WheelRegs.afterUpdate_integ (p : PidUpdate) : (k.afterUpdate p).integ = if p.sat then k.integ else toWord p.candI := rfl
@[simp] theorem WheelRegs.afterUpdate_prevErr (p : PidUpdate) : (k.afterUpdate p).prevErr = toWord p.e := rfl
@[simp] theorem WheelRegs.afterUpdate_filtD (p : PidUpdate) : (k.afterUpdate p).filtD = toWord p.fD := rfl
@[simp] theorem WheelRegs.afterUpdate_lastOut (p : PidUpdate) : (k.afterUpdate p).lastOut = toWord p.y := rfl

@[simp] theorem WheelRegs.clearPid_abs : (k.clearPid).abs = k.abs := rfl
@[simp] theorem WheelRegs.clearPid_pend : (k.clearPid).pend = k.pend := rfl
@[simp] theorem WheelRegs.clearPid_kp : (k.clearPid).kp = k.kp := rfl
@[simp] theorem WheelRegs.clearPid_ki : (k.clearPid).ki = k.ki := rfl
@[simp] theorem WheelRegs.clearPid_kd : (k.clearPid).kd = k.kd := rfl
@[simp] theorem WheelRegs.clearPid_alpha : (k.clearPid).alpha = k.alpha := rfl
@[simp] theorem WheelRegs.clearPid_outMin : (k.clearPid).outMin = k.outMin := rfl
@[simp] theorem WheelRegs.clearPid_outMax : (k.clearPid).outMax = k.outMax := rfl
@[simp] theorem WheelRegs.clearPid_integ : (k.clearPid).integ = 0 := rfl
@[simp] theorem WheelRegs.clearPid_prevErr : (k.clearPid).prevErr = 0 := rfl
@[simp] theorem WheelRegs.clearPid_filtD : (k.clearPid).filtD = 0 := rfl
@[simp] theorem WheelRegs.clearPid_lastOut : (k.clearPid).lastOut = 0 := rfl

/-! ## The reset state -/

@[simp] theorem State.resetWith_params (p : Params) : (State.resetWith p).params = p := rfl
@[simp] theorem State.resetWith_status (p : Params) : (State.resetWith p).status = 0 := rfl
@[simp] theorem State.resetWith_arg0 (p : Params) : (State.resetWith p).arg0 = 0 := rfl
@[simp] theorem State.resetWith_arg1 (p : Params) : (State.resetWith p).arg1 = 0 := rfl
@[simp] theorem State.resetWith_arg2 (p : Params) : (State.resetWith p).arg2 = 0 := rfl
@[simp] theorem State.resetWith_res0 (p : Params) : (State.resetWith p).res0 = 0 := rfl
@[simp] theorem State.resetWith_res1 (p : Params) : (State.resetWith p).res1 = 0 := rfl
@[simp] theorem State.resetWith_res2 (p : Params) : (State.resetWith p).res2 = 0 := rfl
@[simp] theorem State.resetWith_res3 (p : Params) : (State.resetWith p).res3 = 0 := rfl
@[simp] theorem State.resetWith_wheels (p : Params) : (State.resetWith p).wheels = p.wheel.map WheelRegs.resetWith := rfl
@[simp] theorem State.resetWith_inputs (p : Params) : (State.resetWith p).inputs = [] := rfl
@[simp] theorem State.resetWith_replies (p : Params) : (State.resetWith p).replies = [] := rfl

end Sys2Proof.Machine
end

