-- ==== Sys2Proof/Laws/Ops.lean ====
section
/-! SUPPORT. Laws/Ops.lean: the register map (10_state.md R40) and what each operation does to a read of it. -/

namespace Sys2Proof.Machine

/-! ## The register map -/

theorem Reg.ofAddr_addr (r : Reg) : Reg.ofAddr r.addr = some r := by
  cases r with
  | wheel w q => cases w <;> cases q <;> rfl
  | _ => rfl

theorem Reg.addr_injective {r q : Reg} (h : r.addr = q.addr) : r = q := by
  have := congrArg Reg.ofAddr h
  rw [Reg.ofAddr_addr, Reg.ofAddr_addr] at this
  exact Option.some.inj this

theorem Reg.addr_of_ofAddr {a : PortAddr} {r : Reg} (h : Reg.ofAddr a = some r) : a = r.addr := by
  have key : ∀ a : PortAddr, ∀ q ∈ Reg.ofAddr a, a = q.addr := by decide
  exact key a r h

theorem portRead_addr (r : Reg) (s : State) : portRead r.addr s = s.read r := by
  simp [portRead, Reg.ofAddr_addr]

theorem portRead_congr {s t : State} (h : ∀ r, t.read r = s.read r) (a : PortAddr) : portRead a t = portRead a s := by
  unfold portRead
  split
  · exact h _
  · rfl

/-- A frame is shown register by register. -/
theorem State.unchangedExcept_of_read {s t : State} {regs : List Reg} (h : ∀ r, r ∉ regs → t.read r = s.read r)
    (hp : t.params = s.params) (hi : t.inputs = s.inputs) (hr : t.replies = s.replies) :
    s.unchangedExcept t regs := by
  refine ⟨fun a ha => ?_, hp, hi, hr⟩
  unfold portRead
  split
  · next r hr => exact h r fun hm => ha r hm (Reg.addr_of_ofAddr hr)
  · rfl

/-- A frame read register by register. -/
theorem State.unchangedExcept.read_eq {s t : State} {regs : List Reg} (h : s.unchangedExcept t regs) {r : Reg}
    (hr : r ∉ regs) : t.read r = s.read r := by
  rw [← portRead_addr, ← portRead_addr]
  exact h.1 _ fun q hq he => hr (Reg.addr_injective he ▸ hq)

/-! ## Reads of an updated state -/

variable (s : State)

theorem State.read_setStatus (v : Word) (r : Reg) :
    (s.setStatus v).read r = if r = .status then v else s.read r := by
  cases r <;> rfl

theorem State.read_setArg0 (v : Word) (r : Reg) : (s.setArg0 v).read r = if r = .arg0 then v else s.read r := by
  cases r <;> rfl

theorem State.read_setArg1 (v : Word) (r : Reg) : (s.setArg1 v).read r = if r = .arg1 then v else s.read r := by
  cases r <;> rfl

theorem State.read_setArg2 (v : Word) (r : Reg) : (s.setArg2 v).read r = if r = .arg2 then v else s.read r := by
  cases r <;> rfl

theorem State.read_setRes0 (v : Word) (r : Reg) : (s.setRes0 v).read r = if r = .res0 then v else s.read r := by
  cases r <;> rfl

theorem State.read_setRes_of_not_mem (v0 v1 v2 v3 : Word) {r : Reg} (h : r ∉ [Reg.res0, .res1, .res2, .res3]) :
    (s.setRes v0 v1 v2 v3).read r = s.read r := by
  cases r <;> first | rfl | simp at h

@[simp] theorem State.read_giveReply (v : Word) (r : Reg) : (s.giveReply v).read r = s.read r := by
  cases r <;> rfl

@[simp] theorem State.read_setInputs (is : List Input) (r : Reg) : (s.setInputs is).read r = s.read r := by
  cases r <;> rfl

@[simp] theorem State.portRead_setInputs (is : List Input) (a : PortAddr) : portRead a (s.setInputs is) = portRead a s :=
  portRead_congr (fun r => by simp) a

@[simp] theorem State.read_setWheel_self (w : Wheel) (k : WheelRegs) (q : WheelReg) :
    (s.setWheel w k).read (.wheel w q) = k.read q := by
  simp [State.read]

theorem State.read_setWheel_of_ne {w w' : Wheel} (k : WheelRegs) (q : WheelReg) (h : w' ≠ w) :
    (s.setWheel w k).read (.wheel w' q) = s.read (.wheel w' q) := by
  simp [State.read, State.wheel_setWheel_of_ne s k h]

/-- Writing one wheel's registers changes at most the reads of the registers in which the new ones differ. -/
theorem State.read_setWheel_of_forall {w : Wheel} {k : WheelRegs} {regs : List Reg}
    (h : ∀ q, Reg.wheel w q ∉ regs → k.read q = (s.wheel w).read q) {r : Reg} (hr : r ∉ regs) :
    (s.setWheel w k).read r = s.read r := by
  cases r with
  | wheel w' q =>
    by_cases hw : w' = w
    · subst hw
      rw [State.read_setWheel_self, h q hr]
      rfl
    · exact State.read_setWheel_of_ne s k q hw
  | _ => rfl

/-! ## Shared operations -/

@[simp] theorem State.capture_wheel_self (w : Wheel) (b : Bool) :
    (s.capture w b).wheel w = (s.wheel w).count b := by
  simp [State.capture]

theorem State.capture_wheel_of_ne {w w' : Wheel} (b : Bool) (h : w' ≠ w) :
    (s.capture w b).wheel w' = s.wheel w' := by
  simp [State.capture, State.wheel_setWheel_of_ne s _ h]

/-- A capture event changes nothing but ABS and PEND of its wheel (40_encoder.md R111). -/
theorem State.capture_frame (w : Wheel) (b : Bool) :
    s.unchangedExcept (s.capture w b) [.wheel w .abs, .wheel w .pend] := by
  refine State.unchangedExcept_of_read (fun r hr => ?_) rfl rfl rfl
  refine State.read_setWheel_of_forall s (fun q hq => ?_) hr
  cases q <;> first | rfl | simp at hq

/-- An illegal word changes nothing but STATUS (43_control.md R182). -/
theorem State.reportIllegal_frame : s.unchangedExcept s.reportIllegal [.status] := by
  refine State.unchangedExcept_of_read (fun r hr => ?_) rfl rfl rfl
  rw [State.reportIllegal, State.read_setStatus, if_neg (by simpa using hr)]

@[simp] theorem State.applyReset_params (d : List Stimulus) : (s.applyReset d).params = s.params := rfl

@[simp] theorem State.applyReset_inputs (d : List Stimulus) : (s.applyReset d).inputs = s.inputs := rfl

@[simp] theorem State.applyReset_replies (d : List Stimulus) :
    (s.applyReset d).replies = s.replies ++ droppedReplies d := rfl

@[simp] theorem State.applyReset_status (d : List Stimulus) : (s.applyReset d).status = 0 := rfl

@[simp] theorem State.applyReset_wheel (d : List Stimulus) (w : Wheel) :
    (s.applyReset d).wheel w = WheelRegs.resetWith (s.params.wheel.get w) :=
  State.wheel_resetWith s.params w

end Sys2Proof.Machine
end

