-- ==== Sys2Proof/Laws/Exec.lean ====
section
/-! SUPPORT. Laws/Exec.lean: what a command, a port write and a step can do, said once. -/

namespace Sys2Proof.Machine

/-! ## The commands -/

theorem execNop_eq (s : State) : execNop s = .next (s.setStatus 0) := rfl

theorem execDcap_eq (w : Wheel) (s : State) :
    execDcap w s = .next (((s.setRes0 (s.wheel w).pend).setWheel w (s.wheel w).clearPend).setStatus 0) := rfl

theorem execDcapa_eq (s : State) :
    execDcapa s = .next ((s.setRes (s.wheel .fl).pend (s.wheel .fr).pend (s.wheel .rr).pend
      (s.wheel .rl).pend).clearAllPend.setStatus 0) := rfl

theorem execPidu_of_hold {w : Wheel} {s : State} (h : s32 s.arg2 ≤ 0) : execPidu w s = .next (s.pidHold w) :=
  if_pos h

theorem execPidu_of_pos {w : Wheel} {s : State} (h : 0 < s32 s.arg2) :
    execPidu w s = .next (s.pidCommit w (pidUpdate (s.wheel w) (s32 s.arg0) (s32 s.arg1) (s32 s.arg2))) :=
  if_neg (Int.not_le.mpr h)

theorem execPidi_eq (w : Wheel) (s : State) :
    execPidi w s = .next ((s.setWheel w (s.wheel w).clearPid).setStatus 0) := rfl

theorem execMix_eq (s : State) :
    execMix s = .next ((s.setMixed (mixCore s.operand0 s.operand1 s.operand2)).setStatus
      (mixStatus (mixCore s.operand0 s.operand1 s.operand2).norm)) := rfl

theorem execMixc_eq (s : State) :
    execMixc s = .next ((s.setMixed (mixCore s.operand0 s.operand1
        (clampedW s.params s.operand0 s.operand1 s.operand2))).setStatus
      (mixcStatus (mixCore s.operand0 s.operand1 (clampedW s.params s.operand0 s.operand1 s.operand2)).norm
        (clampHolds s.params s.operand0 s.operand1 s.operand2))) := rfl

/-- Every command answers a next state (60_exceptions.md R191). -/
theorem exec_next (i : Instr) (s : State) : ∃ t, exec i s = .next t := by
  cases i with
  | pidu w =>
    rcases Int.lt_or_le 0 (s32 s.arg2) with h | h
    · exact ⟨_, execPidu_of_pos h⟩
    · exact ⟨_, execPidu_of_hold h⟩
  | _ => exact ⟨_, rfl⟩

/-- What no command changes: the parameters, the operand registers, the interface's lists, and of every wheel ABS and
the configuration registers. -/
structure SameBase (s t : State) : Prop where
  params : t.params = s.params
  inputs : t.inputs = s.inputs
  replies : t.replies = s.replies
  arg0 : t.arg0 = s.arg0
  arg1 : t.arg1 = s.arg1
  arg2 : t.arg2 = s.arg2
  abs : ∀ w, (t.wheel w).abs = (s.wheel w).abs
  kp : ∀ w, (t.wheel w).kp = (s.wheel w).kp
  ki : ∀ w, (t.wheel w).ki = (s.wheel w).ki
  kd : ∀ w, (t.wheel w).kd = (s.wheel w).kd
  alpha : ∀ w, (t.wheel w).alpha = (s.wheel w).alpha
  outMin : ∀ w, (t.wheel w).outMin = (s.wheel w).outMin
  outMax : ∀ w, (t.wheel w).outMax = (s.wheel w).outMax

/-- A state that differs in STATUS, RES and one wheel's counters and PID state has the same base. -/
theorem SameBase.of_wheel {s t : State} {w : Wheel} {k : WheelRegs} (hw : ∀ w', t.wheel w' = (s.setWheel w k).wheel w')
    (h : t.params = s.params ∧ t.inputs = s.inputs ∧ t.replies = s.replies ∧ t.arg0 = s.arg0 ∧ t.arg1 = s.arg1
      ∧ t.arg2 = s.arg2)
    (hk : k.abs = (s.wheel w).abs ∧ k.kp = (s.wheel w).kp ∧ k.ki = (s.wheel w).ki ∧ k.kd = (s.wheel w).kd
      ∧ k.alpha = (s.wheel w).alpha ∧ k.outMin = (s.wheel w).outMin ∧ k.outMax = (s.wheel w).outMax) :
    SameBase s t := by
  obtain ⟨h1, h2, h3, h4, h5, h6⟩ := h
  obtain ⟨k1, k2, k3, k4, k5, k6, k7⟩ := hk
  refine ⟨h1, h2, h3, h4, h5, h6, ?_, ?_, ?_, ?_, ?_, ?_, ?_⟩ <;> intro w' <;> rw [hw, State.wheel_setWheel] <;>
    split <;> first | rfl | (next hh => subst hh; assumption)

/-- No command changes the base of the state. -/
theorem exec_sameBase {i : Instr} {s t : State} (h : exec i s = .next t) : SameBase s t := by
  cases i with
  | nop => cases h; constructor <;> intros <;> rfl
  | dcap w =>
    cases h
    exact .of_wheel (fun _ => rfl) ⟨rfl, rfl, rfl, rfl, rfl, rfl⟩ ⟨rfl, rfl, rfl, rfl, rfl, rfl, rfl⟩
  | dcapa => cases h; constructor <;> first | rfl | (intro w; cases w <;> rfl)
  | pidu w =>
    rcases Int.lt_or_le 0 (s32 s.arg2) with hp | hp
    · rw [exec, execPidu_of_pos hp] at h
      cases h
      exact .of_wheel (fun _ => rfl) ⟨rfl, rfl, rfl, rfl, rfl, rfl⟩ ⟨rfl, rfl, rfl, rfl, rfl, rfl, rfl⟩
    · rw [exec, execPidu_of_hold hp] at h
      cases h
      constructor <;> intros <;> rfl
  | pidi w =>
    cases h
    exact .of_wheel (fun _ => rfl) ⟨rfl, rfl, rfl, rfl, rfl, rfl⟩ ⟨rfl, rfl, rfl, rfl, rfl, rfl, rfl⟩
  | mix => cases h; constructor <;> intros <;> rfl
  | mixc => cases h; constructor <;> intros <;> rfl

/-- What a command does to PEND of a wheel: DCAP of the wheel and DCAPA return it and clear it, no other command
touches it (40_encoder.md R121, R122). -/
theorem exec_pend {i : Instr} {s t : State} (w : Wheel) (h : exec i s = .next t) :
    (i = .dcap w ∧ (t.wheel w).pend = 0 ∧ t.res0 = (s.wheel w).pend)
      ∨ (i = .dcapa ∧ (t.wheel w).pend = 0 ∧ t.resOf w = (s.wheel w).pend)
      ∨ (i ≠ .dcap w ∧ i ≠ .dcapa ∧ (t.wheel w).pend = (s.wheel w).pend) := by
  cases i with
  | pidu w' =>
    refine .inr (.inr ⟨by simp, by simp, ?_⟩)
    rcases Int.lt_or_le 0 (s32 s.arg2) with hp | hp
    · rw [exec, execPidu_of_pos hp] at h
      cases h
      simp only [State.pidCommit, State.wheel_setStatus, State.wheel_setRes0, State.wheel_setWheel]
      split
      · next h => subst h; rfl
      · rfl
    · rw [exec, execPidu_of_hold hp] at h
      cases h
      rfl
  | dcap w' =>
    cases h
    by_cases hw : w' = w
    · subst hw
      exact .inl ⟨rfl, by simp, rfl⟩
    · refine .inr (.inr ⟨by simpa using hw, by simp, ?_⟩)
      simp only [State.wheel_setStatus, State.wheel_setWheel, if_neg (fun h : w = w' => hw h.symm),
        State.wheel_setRes0]
  | dcapa =>
    cases h
    exact .inr (.inl ⟨rfl, by simp, by cases w <;> rfl⟩)
  | pidi w' =>
    refine .inr (.inr ⟨by simp, by simp, ?_⟩)
    cases h
    simp only [State.wheel_setStatus, State.wheel_setWheel]
    split
    · next h => subst h; rfl
    · rfl
  | nop => cases h; exact .inr (.inr ⟨by simp, by simp, rfl⟩)
  | mix => cases h; exact .inr (.inr ⟨by simp, by simp, rfl⟩)
  | mixc => cases h; exact .inr (.inr ⟨by simp, by simp, rfl⟩)

/-- The PID state of a wheel (10_state.md R35 to R38). -/
def WheelRegs.samePid (k l : WheelRegs) : Prop :=
  l.integ = k.integ ∧ l.prevErr = k.prevErr ∧ l.filtD = k.filtD ∧ l.lastOut = k.lastOut

/-- A command other than PIDU and PIDI of a wheel leaves the wheel's PID state alone (41_pid.md R151). -/
theorem exec_samePid {i : Instr} {s t : State} {w : Wheel} (h : exec i s = .next t) (hu : i ≠ .pidu w)
    (hi : i ≠ .pidi w) : (s.wheel w).samePid (t.wheel w) := by
  cases i with
  | pidu w' =>
    have hw : w ≠ w' := fun e => hu (e ▸ rfl)
    rcases Int.lt_or_le 0 (s32 s.arg2) with hp | hp
    · rw [exec, execPidu_of_pos hp] at h
      cases h
      simp only [State.pidCommit, State.wheel_setStatus, State.wheel_setRes0, State.wheel_setWheel, if_neg hw]
      exact ⟨rfl, rfl, rfl, rfl⟩
    · rw [exec, execPidu_of_hold hp] at h
      cases h
      exact ⟨rfl, rfl, rfl, rfl⟩
  | pidi w' =>
    have hw : w ≠ w' := fun e => hi (e ▸ rfl)
    cases h
    simp only [State.wheel_setStatus, State.wheel_setWheel, if_neg hw]
    exact ⟨rfl, rfl, rfl, rfl⟩
  | dcap w' =>
    cases h
    simp only [State.wheel_setStatus, State.wheel_setWheel]
    split
    · next h => subst h; exact ⟨rfl, rfl, rfl, rfl⟩
    · exact ⟨rfl, rfl, rfl, rfl⟩
  | dcapa => cases h; simp only [State.wheel_setStatus, State.wheel_clearAllPend]; exact ⟨rfl, rfl, rfl, rfl⟩
  | nop => cases h; exact ⟨rfl, rfl, rfl, rfl⟩
  | mix => cases h; exact ⟨rfl, rfl, rfl, rfl⟩
  | mixc => cases h; exact ⟨rfl, rfl, rfl, rfl⟩

/-! ## The port -/

theorem execute_command {v : Word} {i : Instr} {s : State} (h : decode v = .command i) : execute v s = exec i s := by
  simp only [execute, h]

theorem execute_illegal {v : Word} {why : IllegalWord} {s : State} (h : decode v = .illegal why) :
    execute v s = .next s.reportIllegal := by
  simp only [execute, h]

/-- What a command word does: a command, or the report of an illegal word. -/
theorem execute_cases {v : Word} {s t : State} (h : execute v s = .next t) :
    (∃ i, decode v = .command i ∧ exec i s = .next t) ∨ (∃ why, decode v = .illegal why ∧ t = s.reportIllegal) := by
  cases hd : decode v with
  | command i => exact .inl ⟨i, rfl, by rw [← execute_command hd, h]⟩
  | illegal why =>
    rw [execute_illegal hd] at h
    cases h
    exact .inr ⟨why, rfl, rfl⟩

/-- What a port write does (20_memory.md R63): a command, a write of an operand register, or nothing. -/
theorem portWrite_cases (a : PortAddr) (v : Word) (s : State) :
    (a = 0#7 ∧ portWrite a v s = execute v s) ∨ (a = 2#7 ∧ portWrite a v s = .next (s.setArg0 v))
      ∨ (a = 3#7 ∧ portWrite a v s = .next (s.setArg1 v)) ∨ (a = 4#7 ∧ portWrite a v s = .next (s.setArg2 v))
      ∨ ((a ≠ 0#7 ∧ a ≠ 2#7 ∧ a ≠ 3#7 ∧ a ≠ 4#7) ∧ portWrite a v s = .next s) := by
  have key : ∀ r : Reg, r ≠ .cmd → r ≠ .arg0 → r ≠ .arg1 → r ≠ .arg2 →
      r.addr ≠ 0#7 ∧ r.addr ≠ 2#7 ∧ r.addr ≠ 3#7 ∧ r.addr ≠ 4#7 := fun r h0 h1 h2 h3 =>
    ⟨fun h => h0 (Reg.addr_injective h), fun h => h1 (Reg.addr_injective h), fun h => h2 (Reg.addr_injective h),
      fun h => h3 (Reg.addr_injective h)⟩
  unfold portWrite
  split
  · next h => exact .inl ⟨Reg.addr_of_ofAddr h, rfl⟩
  · next h => exact .inr (.inl ⟨Reg.addr_of_ofAddr h, rfl⟩)
  · next h => exact .inr (.inr (.inl ⟨Reg.addr_of_ofAddr h, rfl⟩))
  · next h => exact .inr (.inr (.inr (.inl ⟨Reg.addr_of_ofAddr h, rfl⟩)))
  · next h0 h1 h2 h3 =>
    refine .inr (.inr (.inr (.inr ⟨?_, rfl⟩)))
    cases hr : Reg.ofAddr a with
    | none => refine ⟨?_, ?_, ?_, ?_⟩ <;> (intro ha; subst ha; cases hr)
    | some r =>
      rw [Reg.addr_of_ofAddr hr]
      refine key r ?_ ?_ ?_ ?_ <;> (intro he; subst he)
      · exact h0 hr
      · exact h1 hr
      · exact h2 hr
      · exact h3 hr

/-! ## The step -/

/-- One step consumes one input, or does nothing when none waits; it answers only with legal parameters. -/
theorem step_cases {s t : State} (h : step s = .next t) :
    s.params.legal = true ∧
      ((s.inputs = [] ∧ t = s) ∨ ∃ i rest, s.inputs = i :: rest ∧ accept i (s.setInputs rest) = .next t) := by
  unfold step at h
  split at h
  · next hl =>
    refine ⟨hl, ?_⟩
    split at h
    · next hi => cases h; exact .inl ⟨hi, rfl⟩
    · next i rest hi => exact .inr ⟨i, rest, hi, h⟩
  · cases h

theorem step_of_input {s : State} {i : Input} {rest : List Input} (hl : s.params.legal = true)
    (hi : s.inputs = i :: rest) : step s = accept i (s.setInputs rest) := by
  simp only [step, hl, hi, if_true]

theorem steps_zero (s : State) : steps 0 s = .next s := rfl

theorem steps_succ_of_step {n : Nat} {s t : State} (h : step s = .next t) : steps (n + 1) s = steps n t := by
  simp only [steps, Host.Core.run]
  rw [show Sys2Proof.core.step s = .next t from h]

/-- The first of several steps, given the input it takes and what that answers. -/
theorem steps_succ_of_input {n : Nat} {s t : State} {i : Input} {rest : List Input} (hl : s.params.legal = true)
    (hi : s.inputs = i :: rest) (ha : accept i (s.setInputs rest) = .next t) : steps (n + 1) s = steps n t :=
  steps_succ_of_step ((step_of_input hl hi).trans ha)

theorem steps_one (s : State) : steps 1 s = step s := by
  simp only [steps, Host.Core.run]
  rw [show Sys2Proof.core.step s = step s from rfl]
  cases step s <;> rfl

/-- What one environment step does: a read, a command, an illegal word, an operand write, an ignored write, a capture
event or reset. -/
theorem accept_cases {i : Input} {s t : State} (h : accept i s = .next t) :
    (∃ a, i = .live (.portRead a) ∧ t = s.giveReply (portRead a s))
      ∨ (∃ v c, i = .live (.portWrite 0#7 v) ∧ decode v = .command c ∧ exec c s = .next t)
      ∨ (∃ v why, i = .live (.portWrite 0#7 v) ∧ decode v = .illegal why ∧ t = s.reportIllegal)
      ∨ (∃ v, i = .live (.portWrite 2#7 v) ∧ t = s.setArg0 v)
      ∨ (∃ v, i = .live (.portWrite 3#7 v) ∧ t = s.setArg1 v)
      ∨ (∃ v, i = .live (.portWrite 4#7 v) ∧ t = s.setArg2 v)
      ∨ (∃ a v, i = .live (.portWrite a v) ∧ (a ≠ 0#7 ∧ a ≠ 2#7 ∧ a ≠ 3#7 ∧ a ≠ 4#7) ∧ t = s)
      ∨ (∃ w b, i = .live (.capture w b) ∧ t = s.capture w b)
      ∨ (∃ d, i = .reset d ∧ t = s.applyReset d) := by
  cases i with
  | reset d => cases h; simp
  | live e =>
    cases e with
    | portRead a => cases h; simp
    | capture w b => cases h; exact .inr (.inr (.inr (.inr (.inr (.inr (.inr (.inl ⟨w, b, rfl, rfl⟩)))))))
    | portWrite a v =>
      change portWrite a v s = _ at h
      rcases portWrite_cases a v s with ⟨ha, hw⟩ | ⟨ha, hw⟩ | ⟨ha, hw⟩ | ⟨ha, hw⟩ | ⟨ha, hw⟩ <;> rw [hw] at h
      · subst ha
        rcases execute_cases h with ⟨c, hc, ht⟩ | ⟨why, hd, ht⟩
        · exact .inr (.inl ⟨v, c, rfl, hc, ht⟩)
        · exact .inr (.inr (.inl ⟨v, why, rfl, hd, ht⟩))
      all_goals cases h
      · subst ha; exact .inr (.inr (.inr (.inl ⟨v, rfl, rfl⟩)))
      · subst ha; exact .inr (.inr (.inr (.inr (.inl ⟨v, rfl, rfl⟩))))
      · subst ha; exact .inr (.inr (.inr (.inr (.inr (.inl ⟨v, rfl, rfl⟩)))))
      · exact .inr (.inr (.inr (.inr (.inr (.inr (.inl ⟨a, v, rfl, ha, rfl⟩))))))

end Sys2Proof.Machine
end

