-- ==== Sys2Proof/Laws/Mixer.lean ====
section
/-! SUPPORT. Laws/Mixer.lean: the range of the mixing core's results (42_mixer.md R162 to R166) and what MIX and MIXC
write. -/

namespace Sys2Proof.Machine

theorem mixMagnitude_eq (m0 m1 m2 m3 : Int) : mixMagnitude m0 m1 m2 m3 = max (max |m0| |m1|) (max |m2| |m3|) := by
  simp only [mixMagnitude, absInt_eq_abs]
  omega

/-- Each sum's magnitude is at most the normalizing magnitude (R164). -/
theorem le_mixMagnitude (m0 m1 m2 m3 : Int) :
    |m0| ≤ mixMagnitude m0 m1 m2 m3 ∧ |m1| ≤ mixMagnitude m0 m1 m2 m3 ∧ |m2| ≤ mixMagnitude m0 m1 m2 m3
      ∧ |m3| ≤ mixMagnitude m0 m1 m2 m3 := by
  simp only [mixMagnitude, absInt_eq_abs]
  omega

/-- A quotient by a magnitude at least as large lies in [-65536, 65536] (R166). -/
theorem tdiv_scaled_bound {m big : Int} (h : |m| ≤ big) (hb : 0 < big) :
    -65536 ≤ tdiv (m * 65536) big ∧ tdiv (m * 65536) big ≤ 65536 := by
  rw [tdiv_eq]
  rw [Int.abs_eq_natAbs] at h
  have h1 : (Int.tdiv (m * 65536) big).natAbs = (m * 65536).natAbs / big.natAbs := Int.natAbs_tdiv ..
  have h2 : (m * 65536).natAbs ≤ 65536 * big.natAbs := by omega
  have h3 : (m * 65536).natAbs / big.natAbs ≤ 65536 :=
    Nat.div_le_of_le_mul (by rw [Nat.mul_comm]; exact h2)
  omega

/-- Every result of the mixing core lies in [-65536, 65536] (R162). -/
theorem normalizeSums_bound (m0 m1 m2 m3 : Int) :
    (-65536 ≤ (normalizeSums m0 m1 m2 m3).r0 ∧ (normalizeSums m0 m1 m2 m3).r0 ≤ 65536)
      ∧ (-65536 ≤ (normalizeSums m0 m1 m2 m3).r1 ∧ (normalizeSums m0 m1 m2 m3).r1 ≤ 65536)
      ∧ (-65536 ≤ (normalizeSums m0 m1 m2 m3).r2 ∧ (normalizeSums m0 m1 m2 m3).r2 ≤ 65536)
      ∧ (-65536 ≤ (normalizeSums m0 m1 m2 m3).r3 ∧ (normalizeSums m0 m1 m2 m3).r3 ≤ 65536) := by
  obtain ⟨h0, h1, h2, h3⟩ := le_mixMagnitude m0 m1 m2 m3
  simp only [normalizeSums]
  split
  · exact ⟨tdiv_scaled_bound h0 (by omega), tdiv_scaled_bound h1 (by omega), tdiv_scaled_bound h2 (by omega),
      tdiv_scaled_bound h3 (by omega)⟩
  · simp only [abs_le] at h0 h1 h2 h3 ⊢
    omega

/-- The results of the mixing core fit a register. -/
theorem mixCore_fits (vx vy wz : Int) :
    Fits (mixCore vx vy wz).r0 ∧ Fits (mixCore vx vy wz).r1 ∧ Fits (mixCore vx vy wz).r2
      ∧ Fits (mixCore vx vy wz).r3 := by
  have h := normalizeSums_bound (vx - vy - wz) (vx + vy + wz) (vx - vy + wz) (vx + vy - wz)
  unfold mixCore Fits
  omega

/-- A command that writes RES0 to RES3 and STATUS changes nothing else. -/
theorem State.setMixed_frame (s : State) (r : Mixed) (v : Word) :
    s.unchangedExcept ((s.setMixed r).setStatus v) [.res0, .res1, .res2, .res3, .status] := by
  refine State.unchangedExcept_of_read (fun q hq => ?_) rfl rfl rfl
  simp only [List.mem_cons, List.not_mem_nil, or_false, not_or] at hq
  rw [State.read_setStatus, if_neg hq.2.2.2.2, State.setMixed,
    State.read_setRes_of_not_mem _ _ _ _ _ (by simp [hq])]

end Sys2Proof.Machine
end

