-- ==== Sys2Proof/Laws/PerInstr.lean ====
section
/-! SUPPORT. Laws/PerInstr.lean: the statements made of every command as syntax. -/

namespace Sys2Proof.Laws.FieldsLegal

/-- The fields of the command's word are those of a legal word (30_encoding.md R95), and its reserved bits are 0. -/
def Statement (i : Instr) : Prop := i.wellFormed = true ∧ (encode i).toNat < 64

theorem nop : Statement .nop := ⟨by decide, by decide⟩

theorem dcap (w : Wheel) : Statement (.dcap w) := by
  cases w <;> exact ⟨by decide, by decide⟩

theorem dcapa : Statement .dcapa := ⟨by decide, by decide⟩

theorem pidu (w : Wheel) : Statement (.pidu w) := by
  cases w <;> exact ⟨by decide, by decide⟩

theorem pidi (w : Wheel) : Statement (.pidi w) := by
  cases w <;> exact ⟨by decide, by decide⟩

theorem mix : Statement .mix := ⟨by decide, by decide⟩

theorem mixc : Statement .mixc := ⟨by decide, by decide⟩

end Sys2Proof.Laws.FieldsLegal
end

