-- ==== Sys2Proof/Laws/Pid.lean ====
section
/-! SUPPORT. Laws/Pid.lean: what the PID commands write (41_pid.md R142, R143, R152). -/

namespace Sys2Proof.Machine

/-! ## The values of an update -/

variable (k : WheelRegs) (t m dt : Int)

@[simp] theorem pidUpdate_e : (pidUpdate k t m dt).e = sat32 (t - m) := rfl

@[simp] theorem pidUpdate_candI :
    (pidUpdate k t m dt).candI = sat32 (s32 k.integ + fmul (sat32 (t - m)) dt) := rfl

@[simp] theorem pidUpdate_fD :
    (pidUpdate k t m dt).fD = sat32 (fmul (s32 k.alpha) (fdiv (sat32 (t - m) - s32 k.prevErr) dt)
      + fmul (65536 - s32 k.alpha) (s32 k.filtD)) := rfl

theorem pidUpdate_u :
    (pidUpdate k t m dt).u = fmul (s32 k.kp) (pidUpdate k t m dt).e + fmul (s32 k.ki) (pidUpdate k t m dt).candI
      + fmul (s32 k.kd) (pidUpdate k t m dt).fD := by
  simp only [pidUpdate, pidOutput]

theorem pidUpdate_y : (pidUpdate k t m dt).y = clampmm (pidUpdate k t m dt).u (s32 k.outMin) (s32 k.outMax) := by
  simp only [pidUpdate]

theorem pidUpdate_sat :
    (pidUpdate k t m dt).sat = true ↔ (pidUpdate k t m dt).u > s32 k.outMax ∨ (pidUpdate k t m dt).u < s32 k.outMin := by
  simp [pidUpdate, pidSaturates]

theorem pidUpdate_e_fits : Fits (pidUpdate k t m dt).e := sat32_fits _

theorem pidUpdate_candI_fits : Fits (pidUpdate k t m dt).candI := sat32_fits _

theorem pidUpdate_fD_fits : Fits (pidUpdate k t m dt).fD := sat32_fits _

theorem pidUpdate_y_fits : Fits (pidUpdate k t m dt).y := clampmm_fits (s32_fits _) (s32_fits _)

/-! ## The writes of an update and of a hold -/

variable (s : State) (w : Wheel) (p : PidUpdate)

@[simp] theorem State.pidCommit_wheel_self : (s.pidCommit w p).wheel w = (s.wheel w).afterUpdate p := by
  simp [State.pidCommit]

theorem State.pidCommit_wheel_of_ne {w' : Wheel} (h : w' ≠ w) : (s.pidCommit w p).wheel w' = s.wheel w' := by
  simp [State.pidCommit, State.wheel_setWheel_of_ne s _ h]

@[simp] theorem State.pidCommit_res0 : (s.pidCommit w p).res0 = toWord p.y := rfl

@[simp] theorem State.pidCommit_status : (s.pidCommit w p).status = piduStatus p.sat := rfl

theorem State.pidCommit_frame :
    s.unchangedExcept (s.pidCommit w p)
      [.res0, .status, .wheel w .integ, .wheel w .prevErr, .wheel w .filtD, .wheel w .lastOut] := by
  refine State.unchangedExcept_of_read (fun r hr => ?_) rfl rfl rfl
  simp only [List.mem_cons, List.not_mem_nil, or_false, not_or] at hr
  rw [State.pidCommit, State.read_setStatus, if_neg hr.2.1, State.read_setRes0, if_neg hr.1,
    State.read_setWheel_of_forall (regs := [.wheel w .integ, .wheel w .prevErr, .wheel w .filtD, .wheel w .lastOut]) _ _
      (by simpa using hr.2.2)]
  intro q hq
  cases q <;> first | rfl | simp at hq

@[simp] theorem State.pidHold_wheel (w' : Wheel) : (s.pidHold w).wheel w' = s.wheel w' := rfl

@[simp] theorem State.pidHold_res0 : (s.pidHold w).res0 = (s.wheel w).lastOut := rfl

@[simp] theorem State.pidHold_status : (s.pidHold w).status = statusDtz := rfl

theorem State.pidHold_frame : s.unchangedExcept (s.pidHold w) [.res0, .status] := by
  refine State.unchangedExcept_of_read (fun r hr => ?_) rfl rfl rfl
  simp only [List.mem_cons, List.not_mem_nil, or_false, not_or] at hr
  rw [State.pidHold, State.read_setStatus, if_neg hr.2, State.read_setRes0, if_neg hr.1]

/-- The two forms of PIDU. -/
theorem exec_pidu_cases {s t : State} {w : Wheel} (h : exec (.pidu w) s = .next t) :
    (0 < s32 s.arg2 ∧ t = s.pidCommit w (pidUpdate (s.wheel w) (s32 s.arg0) (s32 s.arg1) (s32 s.arg2)))
      ∨ (s32 s.arg2 ≤ 0 ∧ t = s.pidHold w) := by
  rcases Int.lt_or_le 0 (s32 s.arg2) with hp | hp
  · rw [exec, execPidu_of_pos hp] at h
    cases h
    exact .inl ⟨hp, rfl⟩
  · rw [exec, execPidu_of_hold hp] at h
    cases h
    exact .inr ⟨hp, rfl⟩

end Sys2Proof.Machine
end

