-- ==== Sys2Proof/Laws/Run.lean ====
section
/-! SUPPORT. Laws/Run.lean: what an input's command is, that every input is accepted, what no input changes, and the
runs over a list of inputs, one input at a time. -/

namespace Sys2Proof.Machine

/-! ## The command an input carries -/

@[simp] theorem Input.command_read (a : PortAddr) : (Input.live (.portRead a)).command = none := rfl

@[simp] theorem Input.command_capture (w : Wheel) (b : Bool) : (Input.live (.capture w b)).command = none := rfl

@[simp] theorem Input.command_reset (d : List Stimulus) : (Input.reset d).command = none := rfl

theorem Input.command_of_decode {v : Word} {c : Instr} (h : decode v = .command c) :
    (Input.live (.portWrite 0#7 v)).command = some c := by
  simp only [Input.command, h]
  rfl

theorem Input.command_of_illegal {v : Word} {why : IllegalWord} (h : decode v = .illegal why) :
    (Input.live (.portWrite 0#7 v)).command = none := by
  simp only [Input.command, h]
  rfl

theorem Input.command_of_ne {a : PortAddr} {v : Word} (h : a ≠ 0#7) :
    (Input.live (.portWrite a v)).command = none :=
  if_neg h

/-- An input that carries a command is a CMD write that runs it. -/
theorem accept_of_command {i : Input} {c : Instr} {s : State} (h : i.command = some c) : accept i s = exec c s := by
  cases i with
  | reset d => cases h
  | live e =>
    cases e with
    | portRead a => cases h
    | capture w b => cases h
    | portWrite a v =>
      by_cases ha : a = 0#7
      · subst ha
        cases hd : decode v with
        | command d =>
          rw [Input.command_of_decode hd] at h
          cases h
          exact execute_command hd
        | illegal why => rw [Input.command_of_illegal hd] at h; cases h
      · rw [Input.command_of_ne ha] at h; cases h

/-! ## What an input does to the wheels -/

theorem Input.isReset_of_command {i : Input} {c : Instr} (h : i.command = some c) : i.isReset = false := by
  cases i with
  | reset d => cases h
  | live e => rfl

theorem ticks_cons_of_ne {w : Wheel} {i : Input} (is : List Input) (h : ∀ b, i ≠ .live (.capture w b)) :
    ticks w (i :: is) = ticks w is := by
  cases i with
  | reset d => rfl
  | live e =>
    cases e with
    | capture w' b =>
      have hw : w' ≠ w := fun hw => h b (hw ▸ rfl)
      simp only [ticks, if_neg hw, Int.zero_add]
    | _ => rfl

/-- An input runs a command, is a capture event, is reset, or leaves every wheel's registers alone. -/
theorem accept_wheel_cases {i : Input} {s t : State} (h : accept i s = .next t) :
    (∃ c, i.command = some c ∧ exec c s = .next t) ∨ (∃ w b, i = .live (.capture w b) ∧ t = s.capture w b)
      ∨ (∃ d, i = .reset d ∧ t = s.applyReset d)
      ∨ (i.command = none ∧ i.isReset = false ∧ (∀ w b, i ≠ .live (.capture w b)) ∧ ∀ w, t.wheel w = s.wheel w) := by
  rcases accept_cases h with ⟨a, rfl, rfl⟩ | ⟨v, c, rfl, hd, h⟩ | ⟨v, why, rfl, hd, rfl⟩ | ⟨v, rfl, rfl⟩ |
    ⟨v, rfl, rfl⟩ | ⟨v, rfl, rfl⟩ | ⟨a, v, rfl, ha, rfl⟩ | ⟨w, b, rfl, rfl⟩ | ⟨d, rfl, rfl⟩
  · exact .inr (.inr (.inr ⟨rfl, rfl, by simp, fun _ => rfl⟩))
  · exact .inl ⟨c, Input.command_of_decode hd, h⟩
  · exact .inr (.inr (.inr ⟨Input.command_of_illegal hd, rfl, by simp, fun _ => rfl⟩))
  · exact .inr (.inr (.inr ⟨rfl, rfl, by simp, fun _ => rfl⟩))
  · exact .inr (.inr (.inr ⟨rfl, rfl, by simp, fun _ => rfl⟩))
  · exact .inr (.inr (.inr ⟨rfl, rfl, by simp, fun _ => rfl⟩))
  · exact .inr (.inr (.inr ⟨Input.command_of_ne ha.1, rfl, by simp, fun _ => rfl⟩))
  · exact .inr (.inl ⟨w, b, rfl, rfl⟩)
  · exact .inr (.inr (.inl ⟨d, rfl, rfl⟩))

/-! ## Every input is accepted -/

theorem execute_next (v : Word) (s : State) : ∃ t, execute v s = .next t := by
  cases hd : decode v with
  | command c => rw [execute_command hd]; exact exec_next c s
  | illegal why => exact ⟨_, execute_illegal hd⟩

theorem accept_next (i : Input) (s : State) : ∃ t, accept i s = .next t := by
  cases i with
  | reset d => exact ⟨_, rfl⟩
  | live e =>
    cases e with
    | portRead a => exact ⟨_, rfl⟩
    | capture w b => exact ⟨_, rfl⟩
    | portWrite a v =>
      change ∃ t, portWrite a v s = _
      rcases portWrite_cases a v s with ⟨_, e⟩ | ⟨_, e⟩ | ⟨_, e⟩ | ⟨_, e⟩ | ⟨_, e⟩ <;> rw [e]
      · exact execute_next v s
      all_goals exact ⟨_, rfl⟩

/-- No input changes the parameters, and none reads or writes the inputs behind it. -/
theorem accept_base {i : Input} {s t : State} (h : accept i s = .next t) :
    t.params = s.params ∧ t.inputs = s.inputs := by
  rcases accept_cases h with ⟨a, _, rfl⟩ | ⟨v, c, _, _, h⟩ | ⟨v, why, _, _, rfl⟩ | ⟨v, _, rfl⟩ | ⟨v, _, rfl⟩ |
    ⟨v, _, rfl⟩ | ⟨a, v, _, _, rfl⟩ | ⟨w, b, _, rfl⟩ | ⟨d, _, rfl⟩ <;> try exact ⟨rfl, rfl⟩
  exact ⟨(exec_sameBase h).params, (exec_sameBase h).inputs⟩

/-! ## Commands and inputs do not look at the waiting inputs -/

theorem exec_setInputs {i : Instr} {s t : State} (l : List Input) (h : exec i s = .next t) :
    exec i (s.setInputs l) = .next (t.setInputs l) := by
  cases i with
  | pidu w =>
    rcases Int.lt_or_le 0 (s32 s.arg2) with hp | hp
    · rw [exec, execPidu_of_pos hp] at h
      rw [exec, execPidu_of_pos (by exact hp)]
      cases h; rfl
    · rw [exec, execPidu_of_hold hp] at h
      rw [exec, execPidu_of_hold (by exact hp)]
      cases h; rfl
  | _ => cases h; rfl

theorem execute_setInputs {v : Word} {s t : State} (l : List Input) (h : execute v s = .next t) :
    execute v (s.setInputs l) = .next (t.setInputs l) := by
  rcases execute_cases h with ⟨i, hd, h⟩ | ⟨why, hd, rfl⟩
  · rw [execute_command hd]; exact exec_setInputs l h
  · rw [execute_illegal hd]; rfl

/-- No input looks at the inputs that wait behind it. -/
theorem accept_setInputs {i : Input} {s t : State} (l : List Input) (h : accept i s = .next t) :
    accept i (s.setInputs l) = .next (t.setInputs l) := by
  rcases accept_cases h with ⟨a, rfl, rfl⟩ | ⟨v, c, rfl, hd, h⟩ | ⟨v, why, rfl, hd, rfl⟩ | ⟨v, rfl, rfl⟩ |
    ⟨v, rfl, rfl⟩ | ⟨v, rfl, rfl⟩ | ⟨a, v, rfl, ha, rfl⟩ | ⟨w, b, rfl, rfl⟩ | ⟨d, rfl, rfl⟩ <;> try rfl
  · exact (execute_command hd).trans (exec_setInputs l h)
  · exact execute_illegal hd
  · change portWrite a v _ = _
    rcases portWrite_cases a v (State.setInputs _ l) with h | h | h | h | h
    · exact absurd h.1 ha.1
    · exact absurd h.1 ha.2.1
    · exact absurd h.1 ha.2.2.1
    · exact absurd h.1 ha.2.2.2
    · exact h.2

/-! ## Runs, one input at a time -/

theorem runEnd_cons {s t : State} {i : Input} (is : List Input) (h : step (s.setInputs [i]) = .next t) :
    runEnd s (i :: is) = runEnd t is := by
  simp only [runEnd, h]

theorem runTrace_cons {s t : State} {i : Input} (is : List Input) (h : step (s.setInputs [i]) = .next t) :
    runTrace s (i :: is) = (i, t) :: runTrace t is := by
  simp only [runTrace, h]

/-- The first input of a run with legal parameters is accepted and leaves a state with the same parameters. -/
theorem run_first {s : State} (i : Input) (h : s.params.legal = true) :
    ∃ t, accept i (s.setInputs []) = .next t ∧ step (s.setInputs [i]) = .next t
      ∧ t.params = s.params ∧ t.inputs = [] := by
  obtain ⟨t, ht⟩ := accept_next i (s.setInputs [])
  obtain ⟨hp, hi⟩ := accept_base ht
  refine ⟨t, ht, ?_, hp, hi⟩
  rw [step_of_input (s := (s.setInputs [i])) (by exact h) rfl]
  exact ht

theorem runEnd_params {s : State} (is : List Input) (h : s.params.legal = true) :
    (runEnd s is).params = s.params := by
  induction is generalizing s with
  | nil => rfl
  | cons i is ih =>
    obtain ⟨t, -, hs, hp, -⟩ := run_first i h
    rw [runEnd_cons is hs, ih (by rw [hp]; exact h), hp]

theorem runEnd_append {s : State} (l m : List Input) (h : s.params.legal = true) :
    runEnd s (l ++ m) = runEnd (runEnd s l) m := by
  induction l generalizing s with
  | nil => rfl
  | cons i l ih =>
    obtain ⟨t, -, hs, hp, -⟩ := run_first i h
    rw [List.cons_append, runEnd_cons _ hs, runEnd_cons _ hs, ih (by rw [hp]; exact h)]

/-- With an illegal parameter set a run does nothing. -/
theorem run_of_illegal {s : State} (is : List Input) (h : s.params.legal = false) :
    runEnd s is = s ∧ runTrace s is = [] := by
  cases is with
  | nil => exact ⟨rfl, rfl⟩
  | cons i is =>
    have hs : step (s.setInputs [i]) = .refused .illegalParameters := by
      simp [step, h]
    constructor
    · simp only [runEnd, hs]
    · simp only [runTrace, hs]

end Sys2Proof.Machine
end

