-- ==== Sys2Proof/Tests/Slice0.lean ====
section
/-! SUPPORT. Tests/Slice0.lean: tests whose expected values are those of the spec (30_encoding.md R92 to R97 and the
vectors of 95_test_vectors.md, named V-…), and witnesses that the hypotheses of the obligations can be met. -/

namespace Sys2Proof.Tests

open Sys2Proof Sys2Proof.Machine

/-! ## Helpers -/

/-- Wheel 0 has the parameters `k`, the other wheels and the thresholds the defaults (95_test_vectors.md). -/
def paramsOf (k : WheelParams) : Params := { Params.default with wheel := ⟨k, .default, .default, .default⟩ }

/-- The reset state of the parameters of `k` with operands `t`, `m`, `dt` and wheel 0's PID state. -/
def pidStart (k : WheelParams) (x : Int × Int × Int × Int) (t m dt : Int) : State :=
  let s := State.resetWith (paramsOf k)
  (((s.setWheel .fl { s.wheel .fl with
    integ := toWord x.1, prevErr := toWord x.2.1, filtD := toWord x.2.2.1, lastOut := toWord x.2.2.2 }).setArg0
      (toWord t)).setArg1 (toWord m)).setArg2 (toWord dt)

/-- RES0, STATUS and wheel 0's INTEG, PREV_ERR, FILT_D, LAST_OUT. -/
def pidResult (s : State) : List Int :=
  [s32 s.res0, s32 s.status, s32 (s.wheel .fl).integ, s32 (s.wheel .fl).prevErr, s32 (s.wheel .fl).filtD,
    s32 (s.wheel .fl).lastOut]

/-- The state after one command. -/
def after (i : Instr) (s : State) : State := runEnd s (Asm.instr i)

/-- The reset state with the operands `x`, `y`, `z`. -/
def mixStart (x y z : Int) : State := ((State.reset.setArg0 (toWord x)).setArg1 (toWord y)).setArg2 (toWord z)

/-- RES0 to RES3 and STATUS. -/
def mixResult (s : State) : List Int := [s32 s.res0, s32 s.res1, s32 s.res2, s32 s.res3, s32 s.status]

/-- The reset state with the given pending deltas. -/
def pendStart (a b c d : Word) : State :=
  { State.reset with wheels := ⟨{ State.reset.wheel .fl with pend := a }, { State.reset.wheel .fr with pend := b },
    { State.reset.wheel .rr with pend := c }, { State.reset.wheel .rl with pend := d }⟩ }

/-- The reset state in which wheel `w` counts `a` and `p`. -/
def countStart (w : Wheel) (a p : Word) : State :=
  State.reset.setWheel w { State.reset.wheel w with abs := a, pend := p }

/-- ABS and PEND of a wheel. -/
def counters (s : State) (w : Wheel) : Word × Word := ((s.wheel w).abs, (s.wheel w).pend)

/-- The parameter sets P1, P3, P4, P6 and P7 of 95_test_vectors.md. -/
def p1 : WheelParams := { WheelParams.default with kp := 65536, ki := 32768, kd := 6554, alpha := 32768 }
def p3 : WheelParams := { WheelParams.default with kp := 65536 }
def p4 : WheelParams := { WheelParams.default with kd := 65536, outMin := 0x80000000, outMax := 0x7FFFFFFF }
def p6 : WheelParams := { WheelParams.default with outMin := 65536, outMax := 0xFFFF0000 }
def p7 : WheelParams := { WheelParams.default with outMin := 65536, outMax := 131072 }

/-! ## Well-formedness: each check refuses an ill-formed term (R95, R7) -/

theorem test_wellFormed_refuses_reserved_bits : (⟨1, 0, 1⟩ : CommandFields).legal = false := by decide
theorem test_wellFormed_refuses_undefined_func : (⟨7, 0, 0⟩ : CommandFields).legal = false := by decide
theorem test_wellFormed_refuses_wheel : (⟨2, 1, 0⟩ : CommandFields).legal = false := by decide
theorem test_wellFormed_accepts_a_wheel : (⟨3, 2, 0⟩ : CommandFields).legal = true := by decide
theorem test_wellFormed_refuses_alpha :
    (paramsOf { p1 with alpha := 0 }).legal = false ∧ (paramsOf { p1 with alpha := 65537 }).legal = false
      ∧ (paramsOf { p1 with alpha := 0xFFFFFFFF }).legal = false := by decide
theorem test_wellFormed_accepts_alpha :
    (paramsOf { p1 with alpha := 1 }).legal = true ∧ (paramsOf { p1 with alpha := 65536 }).legal = true := by decide

/-! ## Decoding: words written out field by field, RSVD, WHEEL, FUNC (R92, R94) -/

theorem test_decode_nop : decode (0#26 ++ 0b00#2 ++ 0b0000#4) = .command .nop := by decide
theorem test_decode_dcap :
    decode (0#26 ++ 0b00#2 ++ 0b0001#4) = .command (.dcap .fl) ∧ decode (0#26 ++ 0b11#2 ++ 0b0001#4) = .command (.dcap .rl)
    := by decide
theorem test_decode_dcapa : decode (0#26 ++ 0b00#2 ++ 0b0010#4) = .command .dcapa := by decide
theorem test_decode_pidu :
    decode (0#26 ++ 0b01#2 ++ 0b0011#4) = .command (.pidu .fr) ∧ decode (0#26 ++ 0b10#2 ++ 0b0011#4) = .command (.pidu .rr)
    := by decide
theorem test_decode_pidi :
    decode (0#26 ++ 0b10#2 ++ 0b0100#4) = .command (.pidi .rr) ∧ decode (0#26 ++ 0b11#2 ++ 0b0100#4) = .command (.pidi .rl)
    := by decide
theorem test_decode_mix : decode (0#26 ++ 0b00#2 ++ 0b0101#4) = .command .mix := by decide
theorem test_decode_mixc : decode (0#26 ++ 0b00#2 ++ 0b0110#4) = .command .mixc := by decide
/-- V-CTL-4 to V-CTL-8. -/
theorem test_decode_illegal :
    decode 0x07 = .illegal .undefinedFunc ∧ decode 0x08 = .illegal .undefinedFunc ∧ decode 0x0F = .illegal .undefinedFunc
    ∧ decode 0x37 = .illegal .undefinedFunc ∧ decode 0x10 = .illegal .wheelNotZero ∧ decode 0x30 = .illegal .wheelNotZero
    ∧ decode 0x12 = .illegal .wheelNotZero ∧ decode 0x15 = .illegal .wheelNotZero ∧ decode 0x26 = .illegal .wheelNotZero
    ∧ decode 0x41 = .illegal .reservedBits ∧ decode 0x80000001 = .illegal .reservedBits
    ∧ decode 0xFFFFFFFF = .illegal .reservedBits := by decide
/-- The words of R97's mnemonics, from R94. -/
theorem test_encode_words :
    encode .nop = 0x00 ∧ encode (.dcap .rr) = 0x21 ∧ encode .dcapa = 0x02 ∧ encode (.pidu .fr) = 0x13
      ∧ encode (.pidi .rl) = 0x34 ∧ encode .mix = 0x05 ∧ encode .mixc = 0x06 := by decide
theorem test_decodeTableWord :
    decodeTableWord 32 0x34 = some (.pidi .rl) ∧ decodeTableWord 32 0x07 = none ∧ decodeTableWord 8 0x06 = some .mixc := by
  decide

/-! ## One command each -/

/-- V-CTL-1. -/
theorem test_nop_clears_status : (after .nop (State.reset.setStatus 1)) = State.reset := by decide
/-- V-ENC-4: a negative delta. -/
theorem test_dcap_negative_delta :
    let t := after (.dcap .fr) (((pendStart 4 0xFFFFFFFD 0 0).setRes 0 9 0 0).setStatus 0x10)
    t = (pendStart 4 0 0 0).setRes 0xFFFFFFFD 9 0 0 := by decide
/-- V-ENC-11: ABS keeps its value. -/
theorem test_dcap_keeps_abs :
    counters (after (.dcap .fr) (countStart .fr 10 3)) .fr = (10, 0) := by decide
/-- V-ENC-5. -/
theorem test_dcapa_samples_all :
    after .dcapa (pendStart 2 0xFFFFFFFF 0 7) = State.reset.setRes 2 0xFFFFFFFF 0 7 := by decide
/-- V-PID-1a, V-PID-1c, V-PID-4, V-PID-5. -/
theorem test_pidu_updates :
    pidResult (after (.pidu .fl) (pidStart p1 (0, 0, 0, 0) 32768 0 1311)) = [65536, 1, 0, 32768, 819025, 65536]
    ∧ pidResult (after (.pidu .fl) (pidStart p1 (0, 32768, 409512, 65536) 32768 0 1311))
      = [53571, 0, 655, 32768, 204756, 53571]
    ∧ pidResult (after (.pidu .fl) (pidStart p3 (0, 0, 0, 0) 2147483647 (-2147483648) 65536))
      = [65536, 1, 0, 2147483647, 2147483647, 65536]
    ∧ pidResult (after (.pidu .fl) (pidStart p4 (0, 0, 0, 0) 65536 0 1))
      = [2147483647, 0, 1, 65536, 2147483647, 2147483647] := by decide
/-- V-PID-1e, V-PID-1f, V-PID-3, V-PID-8, V-PID-9. -/
theorem test_pidu_holds_and_bounds :
    pidResult (after (.pidu .fl) (pidStart p1 (1310, 32768, 102378, 43661) 32768 0 0))
      = [43661, 2, 1310, 32768, 102378, 43661]
    ∧ pidResult (after (.pidu .fl) (pidStart p1 (1310, 32768, 102378, 43661) 32768 0 (-5)))
      = [43661, 2, 1310, 32768, 102378, 43661]
    ∧ pidResult (after (.pidu .fl) (pidStart p3 (0, 0, 0, 0) 65536 0 1311)) = [65536, 0, 1311, 65536, 3276100, 65536]
    ∧ pidResult (after (.pidu .fl) (pidStart p6 (0, 0, 0, 0) 100 0 1311)) = [-65536, 1, 0, 100, 4998, -65536]
    ∧ pidResult (after (.pidu .fl) (pidStart p7 (0, 0, 0, 0) 0 0 1311)) = [65536, 1, 0, 0, 0, 65536] := by decide
/-- V-PID-13. -/
theorem test_pidi_clears :
    after (.pidi .fl) (pidStart p1 (1310, 32768, 102378, 43661) 3 4 5) = pidStart p1 (0, 0, 0, 0) 3 4 5 := by decide
/-- V-MIX-2, V-MIX-4, V-MIX-7. -/
theorem test_mix_sums :
    mixResult (after .mix (mixStart 65536 0 0)) = [65536, 65536, 65536, 65536, 0]
    ∧ mixResult (after .mix (mixStart 65536 65536 65536)) = [-21845, 65536, 21845, 21845, 4]
    ∧ mixResult (after .mix (mixStart 32768 (-19661) 13107)) = [39322, 26214, 65536, 0, 0] := by decide
/-- V-MIX-6, V-MIX-12: exact sums beyond 32 bits. -/
theorem test_mix_extremes :
    mixResult (after .mix (mixStart 13107 32768 32768)) = [-43690, 65536, 10922, 10922, 4]
    ∧ mixResult (after .mix (mixStart (-2147483648) 2147483647 (-2147483648))) = [-21845, -21845, -65536, 21845, 4] := by
  decide
/-- V-MIXC-3 to V-MIXC-6: each threshold just true and just false. -/
theorem test_mixc_thresholds :
    mixResult (after .mixc (mixStart 6553 19661 19661)) = [-13108, 26214, -13108, 26214, 8]
    ∧ mixResult (after .mixc (mixStart 6554 19661 19661)) = [-32768, 45876, 6554, 6554, 0]
    ∧ mixResult (after .mixc (mixStart 6553 19660 19661)) = [-32768, 45874, 6554, 6552, 0]
    ∧ mixResult (after .mixc (mixStart 6553 19661 19660)) = [-32768, 45874, 6552, 6554, 0] := by decide
/-- V-MIXC-8, V-MIXC-9, V-MIXC-12, and ARG2 after the last. -/
theorem test_mixc_magnitudes :
    mixResult (after .mixc (mixStart (-6553) (-19661) 19661)) = [13108, -26214, 13108, -26214, 8]
    ∧ mixResult (after .mixc (mixStart 6553 65536 65536)) = [-53621, 65536, -53621, 65536, 12]
    ∧ mixResult (after .mixc (mixStart 0 2147483647 (-2147483648))) = [-65536, 65536, -65536, 65536, 12]
    ∧ (after .mixc (mixStart 0 2147483647 (-2147483648))).arg2 = 0x80000000 := by decide
/-- V-CTL-2, V-CTL-3, V-CTL-6. -/
theorem test_illegal_words_report_only :
    let s := (pendStart 4 2 3 4).setRes 7 0 0 0
    runEnd s (Asm.cmd 0x00000041) = s.setStatus 0x10 ∧ runEnd s (Asm.cmd 0x80000001) = s.setStatus 0x10
      ∧ runEnd s (Asm.cmd 0x00000012) = s.setStatus 0x10 := by decide

/-! ## The other steps -/

/-- V-ENC-1 to V-ENC-3. -/
theorem test_capture_counts :
    counters (runEnd (countStart .rr 5 1) (Asm.cap .rr false)) .rr = (4, 0)
    ∧ counters (runEnd (countStart .fl 0x7FFFFFFF 0x7FFFFFFF) (Asm.cap .fl true)) .fl = (0x80000000, 0x80000000)
    ∧ counters (runEnd (countStart .rl 0x80000000 0) (Asm.cap .rl false)) .rl = (0x7FFFFFFF, 0xFFFFFFFF) := by decide
/-- V-PORT-2, V-PORT-7. -/
theorem test_port_reads :
    portRead 0x15 State.reset = 0x00010000 ∧ portRead 0x16 State.reset = 0xFFFF0000
      ∧ portRead 0x17 State.reset = 0x00010000 ∧ ∀ a ∈ ([0x00, 0x09, 0x1C, 0x50, 0x7F] : List PortAddr),
        portRead a (pendStart 1 2 3 4) = 0 := by decide
/-- V-PORT-1, V-PORT-4, V-PORT-6, V-PORT-9. -/
theorem test_port_writes_ignored :
    runEnd (pendStart 0 0 2 0) (Asm.wrAddr 0x12 0x12345) = pendStart 0 0 2 0
    ∧ runEnd (pendStart 0 0 2 0) (Asm.wrAddr 0x31 0) = pendStart 0 0 2 0
    ∧ runEnd (pendStart 0 0 2 0) (Asm.wrAddr 0x01 0xFF) = pendStart 0 0 2 0
    ∧ runEnd (pendStart 0 0 2 0) (Asm.wrAddr 0x4F 5) = pendStart 0 0 2 0 := by decide
/-- V-PORT-8. -/
theorem test_port_write_arg : portRead 0x03 (runEnd State.reset (Asm.wr .arg1 0xFFFFFFFF)) = 0xFFFFFFFF := by decide
/-- R211, R213: the counters are cleared, a dropped write has no effect and a dropped read gives 0. -/
theorem test_reset_step :
    runEnd (pendStart 1 2 3 4) [.reset [.portWrite 0x02 5, .portRead 0x11, .capture .fl true]]
      = { State.reset with replies := [0] } := by decide
/-- The very next step after placing a row's word runs it (notes/assumptions/14.md). -/
theorem test_withFetchWord_runs :
    step (State.reset.withFetchWord 32 0x02) = exec .dcapa State.reset := rfl
/-- R97: 0.5q, 0.2q, -0.1q, and a tie, away from zero. -/
theorem test_qLiteral :
    Asm.qLiteral 5 10 = 32768 ∧ Asm.qLiteral 2 10 = 13107 ∧ Asm.qLiteral (-1) 10 = 0xFFFFE666
      ∧ Asm.qLiteral 1 131072 = 1 ∧ Asm.qLiteral (-1) 131072 = 0xFFFFFFFF := by decide

/-! ## Witnesses: for each obligation with hypotheses, states and operands that meet them together, clause by clause,
at the boundaries of their ranges -/

/-- The reset state with the environment's steps `is` waiting. -/
def waiting (is : List Input) : State := State.reset.setInputs is

theorem witness_IllegalWordsAreAllButSixteen :
    (∃ why, decode 0x00000007 = .illegal why) ∧ (∃ why, decode 0x00000040 = .illegal why)
      ∧ (∃ why, decode 0x00000036 = .illegal why) := ⟨⟨_, rfl⟩, ⟨_, rfl⟩, ⟨_, rfl⟩⟩

theorem witness_StepRunsTheDecodedCommand :
    ((waiting [.live (.portWrite 0x00 0x34)]).params.legal = true
      ∧ (waiting [.live (.portWrite 0x00 0x34)]).inputs = .live (.portWrite 0x00 0x34) :: []
      ∧ decode 0x34 = .command (.pidi .rl))
    ∧ (State.reset.params.legal = true ∧ decodeTableWord 32 0x00 = some .nop ∧ decodeTableWord 32 0x34 = some (.pidi .rl)) :=
  by decide

theorem witness_IllegalWordReportsIllAndNothingElse :
    (waiting [.live (.portWrite 0x00 0x07)]).params.legal = true
      ∧ (waiting [.live (.portWrite 0x00 0x07)]).inputs = .live (.portWrite 0x00 0x07) :: []
      ∧ decode 0x07 = .illegal .undefinedFunc := by decide

/-- The first and last address of each reserved range (R39); the map's other addresses come with no hypothesis. -/
theorem witness_PortReadFollowsTheRegisterMap :
    ((waiting [.live (.portRead 0x7F)]).params.legal = true
      ∧ (waiting [.live (.portRead 0x7F)]).inputs = .live (.portRead 0x7F) :: [])
    ∧ (0x10 = 0x10 * (Wheel.fl.index.toNat + 1) ∧ 0x40 = 0x10 * (Wheel.rl.index.toNat + 1))
    ∧ ((0x09 ≤ (0x09#7).toNat ∧ (0x09#7).toNat ≤ 0x0F) ∧ (0x09 ≤ (0x0F#7).toNat ∧ (0x0F#7).toNat ≤ 0x0F)
      ∧ (0x10 ≤ (0x1C#7).toNat ∧ (0x1C#7).toNat ≤ 0x4F ∧ 0xC ≤ (0x1C#7).toNat % 0x10)
      ∧ (0x10 ≤ (0x4F#7).toNat ∧ (0x4F#7).toNat ≤ 0x4F ∧ 0xC ≤ (0x4F#7).toNat % 0x10)
      ∧ 0x50 ≤ (0x50#7).toNat ∧ 0x50 ≤ (0x7F#7).toNat) := by decide

theorem witness_ReservedWordsHoldNoState :
    ((waiting [.live (.portRead 0x0F)]).params.legal = true ∧ (0x09 ≤ (0x0F#7).toNat ∧ (0x0F#7).toNat ≤ 0x0F)
      ∧ (waiting [.live (.portRead 0x0F)]).inputs = .live (.portRead 0x0F) :: [])
    ∧ ((waiting [.live (.portWrite 0x50 1)]).params.legal = true ∧ 0x50 ≤ (0x50#7).toNat
      ∧ (waiting [.live (.portWrite 0x50 1)]).inputs = .live (.portWrite 0x50 1) :: []) := by decide

theorem witness_PortWriteActsOnCmdAndArgsOnly :
    ∀ a ∈ ([0x00, 0x01, 0x02, 0x03, 0x04, 0x05, 0x7F] : List PortAddr),
      (waiting [.live (.portWrite a 1)]).params.legal = true
        ∧ (waiting [.live (.portWrite a 1)]).inputs = .live (.portWrite a 1) :: [] := by decide

theorem witness_ArgRegistersHoldWhatTheHostWrote :
    (∀ a ∈ ([0x02, 0x03, 0x04] : List PortAddr),
      (waiting [.live (.portWrite a 1), .live (.portRead a)]).params.legal = true
        ∧ (waiting [.live (.portWrite a 1), .live (.portRead a)]).inputs = .live (.portWrite a 1) :: .live (.portRead a) :: [])
    ∧ (∃ t, execute 0x03 State.reset = .next t) ∧ (∃ t, exec (.pidi .rr) State.reset = .next t) :=
  ⟨by decide, ⟨_, rfl⟩, ⟨_, rfl⟩⟩

/-- One state for each field of STATUS that can be set. -/
theorem witness_EveryCommandWritesTheWholeStatus :
    (∃ t, execute 0x03 (pidStart p1 (0, 0, 0, 0) 32768 0 1) = .next t ∧ t.sat = true)
    ∧ (∃ t, execute 0x03 State.reset = .next t ∧ t.dtz = true)
    ∧ (∃ t, execute 0x05 (mixStart 65537 0 0) = .next t ∧ t.norm = true)
    ∧ (∃ t, execute 0x06 (mixStart 6553 65536 65536) = .next t ∧ t.norm = true ∧ t.clamp = true)
    ∧ (∃ t, execute 0x07 State.reset = .next t ∧ t.ill = true)
    ∧ ((∃ t, execute 0x05 State.reset = .next t) ∧ ∃ t, execute 0x05 (State.reset.setStatus 0xFFFFFFFF) = .next t)
    ∧ ((waiting [.live (.portWrite 0x01 1)]).params.legal = true
      ∧ (waiting [.live (.portWrite 0x01 1)]).inputs = .live (.portWrite 0x01 1) :: []) :=
  ⟨⟨_, rfl, by decide⟩, ⟨_, rfl, by decide⟩, ⟨_, rfl, by decide⟩, ⟨_, rfl, by decide⟩, ⟨_, rfl, by decide⟩,
    ⟨⟨_, rfl⟩, ⟨_, rfl⟩⟩, by decide⟩

theorem witness_OnlyNamedResultRegistersChange :
    (∃ t, execute 0x11 (pendStart 0 5 0 0) = .next t ∧ decode 0x11 = .command (.dcap .fr)) ∧ (∃ t, execute 0x04 State.reset = .next t)
    ∧ ((∃ t, exec .dcapa State.reset = .next t) ∧ ∃ t, exec .dcapa (State.reset.setRes 1 2 3 4) = .next t)
    ∧ (∀ a ∈ ([0x05, 0x08] : List PortAddr), 0x05 ≤ a.toNat ∧ a.toNat ≤ 0x08
      ∧ (waiting [.live (.portWrite a 1)]).params.legal = true
      ∧ (waiting [.live (.portWrite a 1)]).inputs = .live (.portWrite a 1) :: []) :=
  ⟨⟨_, rfl, by decide⟩, ⟨_, rfl⟩, ⟨⟨_, rfl⟩, ⟨_, rfl⟩⟩, by decide⟩

theorem witness_CaptureCountsBothCounters :
    let s := (countStart .fl 0x7FFFFFFF 0x7FFFFFFF).setInputs [.live (.capture .fl true)]
    let s' := (countStart .rl 0x80000000 0x80000000).setInputs [.live (.capture .rl false)]
    (s.params.legal = true ∧ s.inputs = .live (.capture .fl true) :: [] ∧ (s.wheel .fl).abs = 0x7FFFFFFF
      ∧ (s.wheel .fl).pend = 0x7FFFFFFF)
    ∧ (s'.params.legal = true ∧ s'.inputs = .live (.capture .rl false) :: [] ∧ (s'.wheel .rl).abs = 0x80000000
      ∧ (s'.wheel .rl).pend = 0x80000000) := by decide

theorem witness_CountersWrapAndDifferencesRecoverTicks :
    (∃ t, perform (.capture .fl true) (countStart .fl 0x7FFFFFFF 0) = .next t)
    ∧ (State.reset.params.legal = true
      ∧ (∀ i ∈ ([.live (.capture .fl false), .live (.capture .fr true)] : List Input), i.isReset = false)
      ∧ -2147483648 < ticks .fl [.live (.capture .fl false), .live (.capture .fr true)]
      ∧ ticks .fl [.live (.capture .fl false), .live (.capture .fr true)] < 2147483648) :=
  ⟨⟨_, rfl⟩, by decide⟩

theorem witness_OnlyPrimaryRisingEdgesCount : State.reset.params.legal = true := by decide

theorem witness_SimultaneousCaptureFollowsTheCommand :
    (waiting (simultaneous (encode (.dcap .fl)) .fl true)).params.legal = true
      ∧ (waiting (simultaneous (encode (.dcap .fl)) .fl true)).inputs = simultaneous (encode (.dcap .fl)) .fl true ++ []
      ∧ ∃ t, execute (encode (.dcap .fl)) (waiting (simultaneous (encode (.dcap .fl)) .fl true)) = .next t :=
  ⟨by decide, by decide, ⟨_, rfl⟩⟩

theorem witness_OnlyCaptureAndResetChangeAbs :
    (∃ t, step (waiting [.live (.capture .rr false)]) = .next t ∧ (t.wheel .rr).abs ≠ 0)
    ∧ (∃ t, step ((countStart .rr 1 0).setInputs [.reset []]) = .next t ∧ (t.wheel .rr).abs ≠ 1) :=
  ⟨⟨_, rfl, by decide⟩, ⟨_, rfl, by decide⟩⟩

theorem witness_OnlyCaptureAndDeltaCaptureChangePend :
    (∃ t, step (waiting [.live (.capture .rr false)]) = .next t ∧ (t.wheel .rr).pend ≠ 0)
    ∧ (∃ t, step ((pendStart 0 0 3 0).setInputs [.live (.portWrite 0x00 0x21)]) = .next t ∧ (t.wheel .rr).pend ≠ 3)
    ∧ (∃ t, step ((pendStart 0 0 3 0).setInputs [.live (.portWrite 0x00 0x02)]) = .next t ∧ (t.wheel .rr).pend ≠ 3)
    ∧ (∃ t, step ((pendStart 0 0 3 0).setInputs [.reset []]) = .next t ∧ (t.wheel .rr).pend ≠ 3)
    ∧ (∀ i ∈ ([.live (.portRead 0x41), .live (.portWrite 0x41 7)] : List Input),
      (waiting [i]).params.legal = true ∧ (waiting [i]).inputs = i :: [])
    ∧ (Reg.wheel .rl .pend).addr = 0x41 :=
  ⟨⟨_, rfl, by decide⟩, ⟨_, rfl, by decide⟩, ⟨_, rfl, by decide⟩, ⟨_, rfl, by decide⟩, by decide, by decide⟩

/-- The sample before is a reset, a DCAP or none; the next one is a DCAP or a DCAPA. -/
theorem witness_EveryCaptureIsCountedExactlyOnce :
    Params.default.legal = true
    ∧ ((Asm.instr (.dcap .fl) : List Input) = [] ++ [.live (.portWrite 0x00 0x01)]
      ∧ (Input.live (.portWrite 0x00 0x01)).isDeltaCapture .fl = true ∧ (Input.reset []).isReset = true)
    ∧ (∀ i ∈ ([.live (.capture .fl true), .live (.portWrite 0x00 0x11)] : List Input),
      i.isDeltaCapture .fl = false ∧ i.isReset = false)
    ∧ (Input.live (.portWrite 0x00 0x01)).command = some (.dcap .fl)
    ∧ (Input.live (.portWrite 0x00 0x02)).isDeltaCapture .fl = true
    ∧ (Input.live (.portWrite 0x00 0x02)).command = some .dcapa := by decide

theorem witness_AbsIsPendingPlusReturned :
    Params.default.legal = true ∧ (∀ i ∈ Asm.cap .fl true ++ Asm.instr (.dcap .fl), i.isReset = false)
      ∧ returnedSum .fl (runTrace State.reset (Asm.cap .fl true ++ Asm.instr (.dcap .fl))) = 1 := by decide

/-- A step of each kind from a state whose PEND[2] is the wrapped count: idle, an event, a DCAP, a DCAPA, reset. -/
theorem witness_EveryStepKeepsThePendingCount :
    let s := pendStart 0 0 0x80000000 0
    s32 (s.wheel .rr).pend = wrap32 2147483648 ∧ (∃ t, step s = .next t ∧ s.inputs = [])
    ∧ (∃ t, step (s.setInputs (Asm.cap .rr false)) = .next t ∧ (t.wheel .rr).pend = 0x7FFFFFFF)
    ∧ (∃ t, step (s.setInputs (Asm.instr (.dcap .rr))) = .next t ∧ t.res0 = 0x80000000)
    ∧ (∃ t, step (s.setInputs (Asm.instr .dcapa)) = .next t ∧ t.res2 = 0x80000000)
    ∧ ∃ t, step (s.setInputs [.reset []]) = .next t ∧ (t.wheel .rr).pend = 0 :=
  ⟨by decide, ⟨_, rfl, rfl⟩, ⟨_, rfl, by decide⟩, ⟨_, rfl, by decide⟩, ⟨_, rfl, by decide⟩, ⟨_, rfl, by decide⟩⟩

/-- ABS[2] = 10 with 3 pending and 7 returned before: idle, an event, a DCAP, reset. -/
theorem witness_EveryStepKeepsTheCountingInvariant :
    let s := countStart .rr 10 3
    s32 (s.wheel .rr).abs = wrap32 (s32 (s.wheel .rr).pend + 7) ∧ (∃ t, step s = .next t ∧ s.inputs = [])
    ∧ (∃ t, step (s.setInputs (Asm.cap .rr true)) = .next t ∧ counters t .rr = (11, 4))
    ∧ (∃ t, step (s.setInputs (Asm.instr (.dcap .rr))) = .next t ∧ counters t .rr = (10, 0) ∧ t.res0 = 3)
    ∧ ∃ t, step (s.setInputs [.reset []]) = .next t ∧ counters t .rr = (0, 0) :=
  ⟨by decide, ⟨_, rfl, rfl⟩, ⟨_, rfl, by decide⟩, ⟨_, rfl, by decide⟩, ⟨_, rfl, by decide⟩⟩

theorem witness_PiduFollowsTheAlgorithm :
    s32 State.reset.arg2 ≤ 0 ∧ s32 (pidStart p1 (0, 0, 0, 0) 0 0 (-2147483648)).arg2 ≤ 0
      ∧ 0 < s32 (pidStart p1 (0, 0, 0, 0) 32768 0 1).arg2 := by decide

/-- The unsaturated output at a bound, above the upper one, and inside. -/
theorem witness_PiduFollowsTheAlgorithm_bounds :
    (pidUpdate (WheelRegs.resetWith p3) 65536 0 1311).u = s32 (WheelRegs.resetWith p3).outMax
    ∧ (pidUpdate (WheelRegs.resetWith p1) 32768 0 1311).u > s32 (WheelRegs.resetWith p1).outMax := by decide

theorem witness_HeldPiduReturnsTheLastOutput :
    s32 State.reset.arg2 ≤ 0 ∧ (paramsOf { p1 with alpha := 1 }).legal = true := by decide

/-- Above the upper bound, below the lower one, at a bound, and with the bounds reversed. -/
theorem witness_SaturationAtTheBounds :
    (0 < s32 (pidStart p1 (0, 0, 0, 0) 32768 0 1311).arg2
      ∧ (pidUpdate (WheelRegs.resetWith p1) 32768 0 1311).u > s32 (WheelRegs.resetWith p1).outMax)
    ∧ (pidUpdate (WheelRegs.resetWith p7) 0 0 1311).u < s32 (WheelRegs.resetWith p7).outMin
    ∧ (pidUpdate (WheelRegs.resetWith p3) 65536 0 1311).u = s32 (WheelRegs.resetWith p3).outMax
    ∧ s32 (WheelRegs.resetWith p6).outMax < s32 (WheelRegs.resetWith p6).outMin := by decide

theorem witness_PidiClearsOneWheelsState : s32 State.reset.arg2 ≤ 0 := by decide

theorem witness_PidStatePersistsWithoutPidCommands :
    ∀ i ∈ Asm.cap .fl true ++ Asm.instr .mix ++ Asm.instr (.pidu .fr) ++ Asm.wr .arg2 1,
      i.isReset = false ∧ i.command ≠ some (.pidu .fl) ∧ i.command ≠ some (.pidi .fl) := by decide

theorem witness_PidCommandsSeeOneWheelOnly :
    let s := pidStart p1 (0, 0, 0, 0) 32768 0 1311
    let s' := (s.setStatus 3).setWheel .fr (State.reset.wheel .fl)
    (∃ t, exec (.pidu .fl) s = .next t) ∧ (∃ t, exec (.pidu .fl) s' = .next t) ∧ Wheel.fr ≠ .fl
      ∧ s'.arg0 = s.arg0 ∧ s'.arg1 = s.arg1 ∧ s'.arg2 = s.arg2 ∧ s'.wheel .fl = s.wheel .fl :=
  ⟨⟨_, rfl⟩, ⟨_, rfl⟩, by decide, rfl, rfl, rfl, rfl⟩

theorem witness_ZeroErrorGivesZeroOutput :
    let s := pidStart { p1 with outMin := 0, outMax := 0 } (0, 0, 0, 0) 12345 12345 1311
    s.arg0 = s.arg1 ∧ (s.wheel .fl).integ = 0 ∧ (s.wheel .fl).prevErr = 0 ∧ (s.wheel .fl).filtD = 0
      ∧ (s.wheel .fl).lastOut = 0 ∧ s32 (s.wheel .fl).outMin ≤ 0 ∧ 0 ≤ s32 (s.wheel .fl).outMax := by decide

/-- V-PID-1a, V-PID-1b: a saturated update, an event, a saturated update. -/
theorem witness_IntegralFrozenWhileSaturated :
    let s := pidStart p1 (0, 0, 0, 0) 32768 0 1311
    let is := Asm.instr (.pidu .fl) ++ Asm.cap .fl true ++ Asm.instr (.pidu .fl)
    (∀ i ∈ is, i.isReset = false ∧ i.command ≠ some (.pidi .fl)) ∧ (runTrace s is).length = 3
      ∧ allSaturated .fl (runTrace s is) := by
  have h : (runTrace (pidStart p1 (0, 0, 0, 0) 32768 0 1311)
      (Asm.instr (.pidu .fl) ++ Asm.cap .fl true ++ Asm.instr (.pidu .fl))).map (fun x => x.2.status)
      = [statusSat, statusSat, statusSat] := by decide
  refine ⟨by decide, by simpa using congrArg List.length h, fun x hx _ => ?_⟩
  have hm := List.mem_map_of_mem (f := fun x : Input × State => x.2.status) hx
  rw [h] at hm
  simpa using hm

/-- Both ends of the legal coefficients. -/
theorem witness_FilteredDerivativeDecays :
    (let s := pidStart { p1 with alpha := 1 } (0, 5, -1, 0) 7 2 1
     0 < s32 s.arg2 ∧ 1 ≤ s32 (s.wheel .fl).alpha ∧ s32 (s.wheel .fl).alpha ≤ 65536
      ∧ s32 (s.wheel .fl).prevErr = sat32 (s32 s.arg0 - s32 s.arg1) ∧ (s.wheel .fl).filtD ≠ 0)
    ∧ (let s := pidStart { p1 with alpha := 65536 } (0, 5, -1, 0) 7 2 1
     0 < s32 s.arg2 ∧ 1 ≤ s32 (s.wheel .fl).alpha ∧ s32 (s.wheel .fl).alpha ≤ 65536
      ∧ s32 (s.wheel .fl).prevErr = sat32 (s32 s.arg0 - s32 s.arg1) ∧ (s.wheel .fl).filtD ≠ 0) :=
  ⟨by decide, by decide⟩

/-- The magnitude 65536, which does not normalize, and 65537, which does. -/
theorem witness_MixFollowsTheMatrix :
    mixMagnitude 65536 65536 65536 65536 ≤ 65536 ∧ (65536 : Int) = s32 (mixStart 65536 0 0).arg0
      ∧ 65536 < mixMagnitude 65537 65537 65537 65537 ∧ (65537 : Int) = s32 (mixStart 65537 0 0).arg0 := by decide

theorem witness_NormalizationTruncatesTowardZero :
    (65537 : Int) = max (max |65537| |-65537|) (max |1| |0|) ∧ (65536 : Int) < 65537 := by
  refine ⟨?_, by decide⟩
  norm_num

/-- A command that clamps and normalizes, and one at a threshold, which does not clamp. -/
theorem witness_MixcClampsThenMixes :
    (clampHolds Params.default 6553 65536 65536 = true ∧ (mixCore 6553 65536 0).norm = true
      ∧ (after .mixc (mixStart 6553 65536 65536)).clamp = true ∧ (after .mixc (mixStart 6553 65536 65536)).norm = true)
    ∧ clampHolds Params.default 6554 65536 65536 = false ∧ clampHolds Params.default 6553 19660 65536 = false
    ∧ clampHolds Params.default 6553 65536 19660 = false := by decide

theorem witness_MixcIsMixOnTheClampedCommand :
    (let s := mixStart 6554 19661 19661
     clampHolds s.params (s32 s.arg0) (s32 s.arg1) (s32 s.arg2) = false)
    ∧ (let s := mixStart 6553 19661 19661
     clampHolds s.params (s32 s.arg0) (s32 s.arg1) (s32 s.arg2) = true) := by decide

theorem witness_DefaultThresholdsAreTheRealOnes : (mixStart 6553 19661 19661).params = Params.default := by decide

theorem witness_ResetSetsEveryRegister :
    (waiting [.reset [.portRead 0x11]]).params.legal = true
      ∧ (waiting [.reset [.portRead 0x11]]).inputs = .reset [.portRead 0x11] :: [] := by decide

/-- An illegal coefficient on either side, with a state of those parameters, and both ends of the legal range. -/
theorem witness_IllegalAlphaIsRefused :
    (∃ w, s32 ((paramsOf { p1 with alpha := 0 }).wheel.get w).alpha < 1)
    ∧ (∃ w, 65536 < s32 ((paramsOf { p1 with alpha := 65537 }).wheel.get w).alpha)
    ∧ (State.resetWith (paramsOf { p1 with alpha := 0 })).params = paramsOf { p1 with alpha := 0 }
    ∧ (∀ w, 1 ≤ s32 ((paramsOf { p1 with alpha := 1 }).wheel.get w).alpha
      ∧ s32 ((paramsOf { p1 with alpha := 1 }).wheel.get w).alpha ≤ 65536)
    ∧ ∀ w, 1 ≤ s32 ((paramsOf { p1 with alpha := 65536 }).wheel.get w).alpha
      ∧ s32 ((paramsOf { p1 with alpha := 65536 }).wheel.get w).alpha ≤ 65536 :=
  ⟨⟨.fl, by decide⟩, ⟨.fl, by decide⟩, rfl, fun w => by cases w <;> decide, fun w => by cases w <;> decide⟩

theorem witness_ResetMeetsTheInvariant : (paramsOf { p1 with alpha := 1 }).legal = true := by decide

theorem witness_EveryStepKeepsTheInvariant :
    Inv ((pidStart p1 (1, 2, 3, 4) 32768 0 1311).setInputs (Asm.instr (.pidu .fl)))
      ∧ ∃ t, step ((pidStart p1 (1, 2, 3, 4) 32768 0 1311).setInputs (Asm.instr (.pidu .fl))) = .next t :=
  ⟨⟨by decide, fun w => by cases w <;> exact ⟨rfl, rfl, rfl, rfl, rfl, rfl⟩, .inl rfl⟩, ⟨_, rfl⟩⟩

theorem witness_NoStepFaultsOrRefuses : (waiting (Asm.cmd 0xFFFFFFFF)).params.legal = true := by decide

theorem witness_RunsAreStepsOfTheMachine : (waiting Asm.sample).params.legal = true := by decide

theorem witness_PseudoInstructionsRunTheirExpansions :
    ((waiting (Asm.pid .fl 1 2 3)).params.legal = true ∧ (waiting (Asm.pid .fl 1 2 3)).inputs = Asm.pid .fl 1 2 3 ++ []
      ∧ ∃ u, exec (.pidu .fl) (((((waiting (Asm.pid .fl 1 2 3)).setInputs []).setArg0 1).setArg1 2).setArg2 3) = .next u)
    ∧ ((waiting Asm.sample).params.legal = true ∧ (waiting Asm.sample).inputs = Asm.sample ++ [])
    ∧ (waiting (Asm.mixv 1 2 3)).inputs = Asm.mixv 1 2 3 ++ [] ∧ (waiting (Asm.mixvc 1 2 3)).inputs = Asm.mixvc 1 2 3 ++ [] :=
  ⟨⟨by decide, rfl, ⟨_, rfl⟩⟩, ⟨by decide, rfl⟩, rfl, rfl⟩

theorem witness_PrimitivesTruncateAndSaturate :
    -2147483648 ≤ (-2147483648 : Int) ∧ (2147483647 : Int) ≤ 2147483647 ∧ (-1 : Int) ≠ 0 := by decide

end Sys2Proof.Tests
end

/-! # The registers of the block (10_state.md): which steps change them and which leave them alone

General lemmas about the port, the step and the commands come first, the obligations on the registers after them. -/

namespace Sys2Proof.Machine

/-! ## The port -/

/-- A port write at an address other than CMD and ARG0 to ARG2 is ignored (20_memory.md R63). -/
theorem portWrite_ignored {a : PortAddr} (v : Word) (s : State) (ha : a ≠ 0#7 ∧ a ≠ 2#7 ∧ a ≠ 3#7 ∧ a ≠ 4#7) :
    portWrite a v s = .next s := by
  obtain ⟨h0, h2, h3, h4⟩ := ha
  rcases portWrite_cases a v s with ⟨h, -⟩ | ⟨h, -⟩ | ⟨h, -⟩ | ⟨h, -⟩ | ⟨-, h⟩
  · exact absurd h h0
  · exact absurd h h2
  · exact absurd h h3
  · exact absurd h h4
  · exact h

section Step

variable {s : State} {a : PortAddr} {v : Word} {rest : List Input}

/-- The step of a port read gives the host the value and changes no register (20_memory.md R62). -/
theorem step_portRead (hl : s.params.legal = true) (hi : s.inputs = .live (.portRead a) :: rest) :
    step s = .next ((s.setInputs rest).giveReply (portRead a s)) := by
  rw [step_of_input hl hi, ← State.portRead_setInputs s rest a]
  rfl

/-- The step of an ignored port write does nothing but consume it. -/
theorem step_portWrite_ignored (hl : s.params.legal = true) (hi : s.inputs = .live (.portWrite a v) :: rest)
    (ha : a ≠ 0#7 ∧ a ≠ 2#7 ∧ a ≠ 3#7 ∧ a ≠ 4#7) : step s = .next (s.setInputs rest) :=
  (step_of_input hl hi).trans (portWrite_ignored v _ ha)

/-- From address 0x05 on every port write is ignored. -/
theorem step_portWrite_of_five_le (hl : s.params.legal = true) (hi : s.inputs = .live (.portWrite a v) :: rest)
    (ha : 0x05 ≤ a.toNat) : step s = .next (s.setInputs rest) :=
  step_portWrite_ignored hl hi (by bv_omega)

/-- A port write that makes its address read as the value written, and the read of that address after it. -/
theorem steps_portWrite_portRead {u : State} (hl : s.params.legal = true)
    (hi : s.inputs = .live (.portWrite a v) :: .live (.portRead a) :: rest)
    (hw : portWrite a v (s.setInputs (.live (.portRead a) :: rest)) = .next u) (hr : portRead a u = v) :
    steps 2 s = .next ((u.setInputs rest).giveReply v) := by
  obtain ⟨hp, hin⟩ := accept_base (i := .live (.portWrite a v)) hw
  have hlu : u.params.legal = true := by rw [hp]; exact hl
  rw [steps_succ_of_input hl hi hw, steps_one, step_portRead hlu hin, hr]

/-- What a step does to the wheels: none of them changes, or the step is a command, a capture event or reset. -/
theorem step_wheel_cases {t : State} (h : step s = .next t) :
    (∀ w, t.wheel w = s.wheel w) ∨ ∃ i rest, s.inputs = i :: rest ∧
      ((∃ c, i.command = some c ∧ exec c (s.setInputs rest) = .next t)
        ∨ (∃ w b, i = .live (.capture w b) ∧ t = (s.setInputs rest).capture w b)
        ∨ ∃ d, i = .reset d ∧ t = (s.setInputs rest).applyReset d) := by
  obtain ⟨-, ⟨-, rfl⟩ | ⟨i, rest, hi, ha⟩⟩ := step_cases h
  · exact .inl fun _ => rfl
  · rcases accept_wheel_cases ha with hc | hc | hc | ⟨-, -, -, hw⟩
    · exact .inr ⟨i, rest, hi, .inl hc⟩
    · exact .inr ⟨i, rest, hi, .inr (.inl hc)⟩
    · exact .inr ⟨i, rest, hi, .inr (.inr hc)⟩
    · exact .inl hw

end Step

/-! ## Reserved and wheel addresses -/

/-- No register has an address of the three reserved ranges (10_state.md R39). -/
theorem Reg.ofAddr_reserved : ∀ a : PortAddr,
    (0x09 ≤ a.toNat ∧ a.toNat ≤ 0x0F) ∨ (0x10 ≤ a.toNat ∧ a.toNat ≤ 0x4F ∧ 0xC ≤ a.toNat % 0x10) ∨ 0x50 ≤ a.toNat →
    Reg.ofAddr a = none := by decide

theorem portRead_of_ofAddr_none {a : PortAddr} (s : State) (h : Reg.ofAddr a = none) : portRead a s = 0 := by
  simp only [portRead, h]

/-- The wheel blocks begin at address 0x10 (10_state.md R28). -/
theorem Reg.le_addr_wheel (w : Wheel) (q : WheelReg) : 0x10 ≤ (Reg.wheel w q).addr.toNat := by
  cases w <;> cases q <;> decide

/-! ## The operand registers -/

/-- No command word, legal or illegal, changes the base of the state. -/
theorem execute_sameBase {v : Word} {s t : State} (h : execute v s = .next t) : SameBase s t := by
  rcases execute_cases h with ⟨i, -, hi⟩ | ⟨why, -, rfl⟩
  · exact exec_sameBase hi
  · constructor <;> intros <;> rfl

/-- A command other than PIDU, MIX and MIXC does not read the operand registers (10_state.md R26). -/
theorem exec_setArgs {i : Instr} {s t : State} (x y z : Word) (hu : ∀ w, i ≠ .pidu w) (hm : i ≠ .mix)
    (hc : i ≠ .mixc) (h : exec i s = .next t) :
    exec i (((s.setArg0 x).setArg1 y).setArg2 z) = .next (((t.setArg0 x).setArg1 y).setArg2 z) := by
  cases i with
  | nop => cases h; rfl
  | dcap w => cases h; rfl
  | dcapa => cases h; rfl
  | pidu w => exact absurd rfl (hu w)
  | pidi w => cases h; rfl
  | mix => exact absurd rfl hm
  | mixc => exact absurd rfl hc

/-! ## The result registers -/

/-- A command other than DCAPA, MIX and MIXC keeps RES1 to RES3. -/
theorem exec_keeps_res123 {i : Instr} {s t : State} (hi : i ≠ .dcapa ∧ i ≠ .mix ∧ i ≠ .mixc)
    (h : exec i s = .next t) : t.res1 = s.res1 ∧ t.res2 = s.res2 ∧ t.res3 = s.res3 := by
  obtain ⟨ha, hm, hc⟩ := hi
  cases i with
  | nop => cases h; exact ⟨rfl, rfl, rfl⟩
  | dcap w => cases h; exact ⟨rfl, rfl, rfl⟩
  | dcapa => exact absurd rfl ha
  | pidu w => rcases exec_pidu_cases h with ⟨-, rfl⟩ | ⟨-, rfl⟩ <;> exact ⟨rfl, rfl, rfl⟩
  | pidi w => cases h; exact ⟨rfl, rfl, rfl⟩
  | mix => exact absurd rfl hm
  | mixc => exact absurd rfl hc

/-- NOP and PIDI keep RES0. -/
theorem exec_keeps_res0 {i : Instr} {s t : State} (hi : i = .nop ∨ ∃ w, i = .pidi w) (h : exec i s = .next t) :
    t.res0 = s.res0 := by
  rcases hi with rfl | ⟨w, rfl⟩ <;> cases h <;> rfl

/-- What PIDU returns in RES0 (41_pid.md R142, R143). -/
theorem exec_pidu_res0 {w : Wheel} {s t : State} (h : exec (.pidu w) s = .next t) :
    t.res0 = if s32 s.arg2 ≤ 0 then (s.wheel w).lastOut
      else toWord (pidUpdate (s.wheel w) (s32 s.arg0) (s32 s.arg1) (s32 s.arg2)).y := by
  rcases exec_pidu_cases h with ⟨hp, rfl⟩ | ⟨hp, rfl⟩
  · rw [if_neg (by omega), State.pidCommit_res0]
  · rw [if_pos hp, State.pidHold_res0]

/-! ## STATUS -/

/-- The fields of STATUS (10_state.md R25). -/
structure StatusFields where
  sat : Bool := false
  dtz : Bool := false
  norm : Bool := false
  clamp : Bool := false
  ill : Bool := false

/-- The register value with the given fields, its reserved bits 0. -/
def StatusFields.word (f : StatusFields) : Word :=
  piduStatus f.sat ||| (if f.dtz then statusDtz else 0) ||| mixcStatus f.norm f.clamp ||| (if f.ill then statusIll else 0)

/-- Each field of STATUS stands at its bit, and nothing stands in bits 31:5. -/
theorem StatusFields.word_fields (f : StatusFields) :
    f.word.getLsbD 0 = f.sat ∧ f.word.getLsbD 1 = f.dtz ∧ f.word.getLsbD 2 = f.norm ∧ f.word.getLsbD 3 = f.clamp
      ∧ f.word.getLsbD 4 = f.ill ∧ f.word.extractLsb 31 5 = 0 := by
  obtain ⟨sat, dtz, norm, clamp, ill⟩ := f
  revert sat dtz norm clamp ill
  decide

/-! The values the commands write are words of fields (Machine/Flags.lean). -/

theorem StatusFields.word_none : StatusFields.word {} = 0 := by decide

theorem StatusFields.word_sat (b : Bool) : StatusFields.word { sat := b } = piduStatus b := by
  cases b <;> decide

theorem StatusFields.word_dtz : StatusFields.word { dtz := true } = statusDtz := by decide

theorem StatusFields.word_norm (b : Bool) : StatusFields.word { norm := b } = mixStatus b := by
  cases b <;> decide

theorem StatusFields.word_norm_clamp (b c : Bool) : StatusFields.word { norm := b, clamp := c } = mixcStatus b c := by
  cases b <;> cases c <;> decide

theorem StatusFields.word_ill : StatusFields.word { ill := true } = statusIll := by decide

/-- The fields that a decoded command word sets in the state `s`. -/
def decodedStatus (s : State) : Decoded → StatusFields
  | .illegal _ => { ill := true }
  | .command (.pidu w) =>
    { sat := decide (0 < s32 s.arg2) && (pidUpdate (s.wheel w) (s32 s.arg0) (s32 s.arg1) (s32 s.arg2)).sat
      dtz := decide (s32 s.arg2 ≤ 0) }
  | .command .mix => { norm := (mixCore (s32 s.arg0) (s32 s.arg1) (s32 s.arg2)).norm }
  | .command .mixc =>
    { norm := (mixCore (s32 s.arg0) (s32 s.arg1) (clampedW s.params (s32 s.arg0) (s32 s.arg1) (s32 s.arg2))).norm
      clamp := clampHolds s.params (s32 s.arg0) (s32 s.arg1) (s32 s.arg2) }
  | .command _ => {}

/-- A command writes exactly the fields of its decoded word to STATUS. -/
theorem exec_status {i : Instr} {s t : State} (h : exec i s = .next t) :
    t.status = (decodedStatus s (.command i)).word := by
  cases i with
  | pidu w =>
    rcases exec_pidu_cases h with ⟨hp, rfl⟩ | ⟨hp, rfl⟩
    · simp [decodedStatus, hp, Int.not_le.mpr hp, StatusFields.word_sat]
    · simp [decodedStatus, hp, Int.not_lt.mpr hp, StatusFields.word_dtz]
  | mix => cases h; exact (StatusFields.word_norm _).symm
  | mixc => cases h; exact (StatusFields.word_norm_clamp _ _).symm
  | _ => cases h; exact StatusFields.word_none.symm

/-- A command word writes exactly the fields of its decoding to STATUS. -/
theorem execute_status {v : Word} {s t : State} (h : execute v s = .next t) :
    t.status = (decodedStatus s (decode v)).word := by
  rcases execute_cases h with ⟨i, hd, hi⟩ | ⟨why, hd, rfl⟩
  · rw [hd]; exact exec_status hi
  · rw [hd]; exact StatusFields.word_ill.symm

/-- What a command word writes to STATUS does not depend on STATUS before. -/
theorem decodedStatus_setStatus (s : State) (x : Word) (d : Decoded) :
    decodedStatus (s.setStatus x) d = decodedStatus s d := by
  cases d with
  | illegal why => rfl
  | command i => cases i <;> rfl

section Fields

variable (s : State) (d : Decoded)

theorem decodedStatus_sat : (decodedStatus s d).sat = true ↔ ∃ w, d = .command (.pidu w) ∧ 0 < s32 s.arg2
    ∧ ((pidUpdate (s.wheel w) (s32 s.arg0) (s32 s.arg1) (s32 s.arg2)).u > s32 (s.wheel w).outMax
      ∨ (pidUpdate (s.wheel w) (s32 s.arg0) (s32 s.arg1) (s32 s.arg2)).u < s32 (s.wheel w).outMin) := by
  cases d with
  | illegal why => simp [decodedStatus]
  | command i => cases i <;> simp [decodedStatus, pidUpdate_sat]

theorem decodedStatus_dtz : (decodedStatus s d).dtz = true ↔ ∃ w, d = .command (.pidu w) ∧ s32 s.arg2 ≤ 0 := by
  cases d with
  | illegal why => simp [decodedStatus]
  | command i => cases i <;> simp [decodedStatus]

theorem decodedStatus_norm : (decodedStatus s d).norm = true ↔
    (d = .command .mix ∧ (mixCore (s32 s.arg0) (s32 s.arg1) (s32 s.arg2)).norm = true)
      ∨ (d = .command .mixc
        ∧ (mixCore (s32 s.arg0) (s32 s.arg1) (clampedW s.params (s32 s.arg0) (s32 s.arg1) (s32 s.arg2))).norm = true) := by
  cases d with
  | illegal why => simp [decodedStatus]
  | command i => cases i <;> simp [decodedStatus]

theorem decodedStatus_clamp : (decodedStatus s d).clamp = true ↔
    d = .command .mixc ∧ clampHolds s.params (s32 s.arg0) (s32 s.arg1) (s32 s.arg2) = true := by
  cases d with
  | illegal why => simp [decodedStatus]
  | command i => cases i <;> simp [decodedStatus]

theorem decodedStatus_ill : (decodedStatus s d).ill = true ↔ ∃ why, d = .illegal why := by
  cases d with
  | illegal why => simp [decodedStatus]
  | command i => cases i <;> simp [decodedStatus]

end Fields

/-- A PIDU whose output saturates changes no integral (41_pid.md R144). -/
theorem pidCommit_integ_of_sat {s : State} {w : Wheel} {p : PidUpdate} (h : p.sat = true) (w' : Wheel) :
    ((s.pidCommit w p).wheel w').integ = (s.wheel w').integ := by
  by_cases hw : w' = w
  · subst hw
    rw [State.pidCommit_wheel_self, WheelRegs.afterUpdate_integ, if_pos h]
  · rw [State.pidCommit_wheel_of_ne s w p hw]

/-- A command word that leaves SAT in STATUS changes no integral. -/
theorem execute_integ_of_sat {v : Word} {s t : State} (h : execute v s = .next t)
    (hsat : (decodedStatus s (decode v)).sat = true) (w' : Wheel) : (t.wheel w').integ = (s.wheel w').integ := by
  obtain ⟨w, hd, hp, hu⟩ := (decodedStatus_sat s (decode v)).mp hsat
  rw [execute_command hd, exec, execPidu_of_pos hp] at h
  cases h
  exact pidCommit_integ_of_sat ((pidUpdate_sat _ _ _ _).mpr hu) w'

/-! ## The obligations -/

/-- Settles O8: a reserved address names no register, and it is neither CMD nor an operand register. -/
theorem reservedWordsHoldNoState : Obligations.ReservedWordsHoldNoState := by
  intro s a v rest hl ha
  refine ⟨fun hi => ?_, fun hi => ?_⟩
  · rw [step_portRead hl hi, portRead_of_ofAddr_none s (Reg.ofAddr_reserved a ha)]
  · exact step_portWrite_of_five_le hl hi (by omega)

/-- Settles O38: the reset step is `State.applyReset`, whose registers are those of `State.resetWith`. -/
theorem resetSetsEveryRegister : Obligations.ResetSetsEveryRegister := by
  intro s d rest hl hi
  refine ⟨(s.setInputs rest).applyReset d, step_of_input hl hi, rfl, rfl, rfl, rfl, rfl, rfl, rfl, rfl, fun w => ?_,
    rfl, rfl, rfl⟩
  rw [State.applyReset_wheel]
  exact ⟨rfl, rfl, rfl, rfl, rfl, rfl, rfl, rfl, rfl, rfl, rfl, rfl⟩

/-- Settles O10: a write of an operand register is read back by the next step, and the operand registers are part
of the base that no command word changes. -/
theorem argRegistersHoldWhatTheHostWrote : Obligations.ArgRegistersHoldWhatTheHostWrote := by
  refine ⟨fun s a v rest hl ha hi => ?_, fun v s t h => ?_, fun i s t x y z hu hm hc h => exec_setArgs x y z hu hm hc h,
    fun p => ⟨rfl, rfl, rfl⟩⟩
  · rcases ha with rfl | rfl | rfl
    · exact ⟨_, steps_portWrite_portRead hl hi rfl rfl, rfl, rfl, rfl⟩
    · exact ⟨_, steps_portWrite_portRead hl hi rfl rfl, rfl, rfl, rfl⟩
    · exact ⟨_, steps_portWrite_portRead hl hi rfl rfl, rfl, rfl, rfl⟩
  · have hb := execute_sameBase h
    exact ⟨hb.arg0, hb.arg1, hb.arg2⟩

/-- Settles O11: STATUS after a command word is the word of the fields `decodedStatus`, so each field is read off there. -/
theorem everyCommandWritesTheWholeStatus : Obligations.EveryCommandWritesTheWholeStatus := by
  refine ⟨fun v x s t t' h h' => ?_, fun v s t h => ?_,
    fun s v rest hl hi => step_portWrite_ignored hl hi (by decide), fun p => rfl⟩
  · rw [execute_status h, execute_status h', decodedStatus_setStatus]
  · obtain ⟨hsat, hdtz, hnorm, hclamp, hill, hrsvd⟩ := (decodedStatus s (decode v)).word_fields
    rw [State.sat, State.dtz, State.norm, State.clamp, State.ill, execute_status h, hsat, hdtz, hnorm, hclamp, hill]
    exact ⟨decodedStatus_sat s _, execute_integ_of_sat h, decodedStatus_dtz s _, decodedStatus_norm s _,
      decodedStatus_clamp s _, decodedStatus_ill s _, hrsvd⟩

/-- Settles O12: a command's results are RES0 alone, all four registers, or none, and are computed from other
registers. -/
theorem onlyNamedResultRegistersChange : Obligations.OnlyNamedResultRegistersChange := by
  refine ⟨fun v s t h => ?_, fun i s t t' x0 x1 x2 x3 h h' => ?_,
    fun s a v rest hl ha hi => step_portWrite_of_five_le hl hi ha.1, fun p => ⟨rfl, rfl, rfl, rfl⟩⟩
  · rcases execute_cases h with ⟨i, hd, hi⟩ | ⟨why, -, rfl⟩
    · rw [hd]
      refine ⟨fun hn => exec_keeps_res123 (hn i rfl) hi, fun hw ha hm hc => exec_keeps_res0 ?_ hi⟩
      cases i with
      | nop => exact .inl rfl
      | pidi w => exact .inr ⟨w, rfl⟩
      | dcap w => exact absurd rfl (hw w).1
      | pidu w => exact absurd rfl (hw w).2
      | dcapa => exact absurd rfl ha
      | mix => exact absurd rfl hm
      | mixc => exact absurd rfl hc
    · exact ⟨fun _ => ⟨rfl, rfl, rfl⟩, fun _ _ _ _ => rfl⟩
  · refine ⟨?_, ?_⟩
    · rintro ⟨w, rfl | rfl⟩
      · cases h; cases h'; rfl
      · rw [exec_pidu_res0 h, exec_pidu_res0 h']; rfl
    · rintro (rfl | rfl | rfl) <;> cases h <;> cases h' <;> exact ⟨rfl, rfl, rfl, rfl⟩

/-- Settles O19: no command changes ABS, and a capture event changes that of its own wheel only. -/
theorem onlyCaptureAndResetChangeAbs : Obligations.OnlyCaptureAndResetChangeAbs := by
  refine ⟨fun s t w h hne => ?_, fun s w => ⟨s.capture w false, rfl, ?_⟩,
    fun s d w => ⟨s.applyReset d, rfl, by rw [State.applyReset_wheel]; rfl⟩⟩
  · rcases step_wheel_cases h with hw | ⟨i, rest, hi, ⟨c, -, hx⟩ | ⟨w', b, rfl, rfl⟩ | ⟨d, rfl, rfl⟩⟩
    · exact absurd (congrArg WheelRegs.abs (hw w)) hne
    · exact absurd ((exec_sameBase hx).abs w) hne
    · by_cases hw : w = w'
      · subst hw
        exact ⟨rest, .inl ⟨b, hi⟩⟩
      · exact absurd (congrArg WheelRegs.abs (State.capture_wheel_of_ne _ b hw)) hne
    · exact ⟨rest, .inr ⟨d, hi⟩⟩
  · rw [State.capture_wheel_self, WheelRegs.count_abs, s32_toWord_of_fits (wrap32_fits _)]
    rfl

/-- Settles O20: a command changes PEND of a wheel only as a delta capture of it (`exec_pend`), which clears it. -/
theorem onlyCaptureAndDeltaCaptureChangePend : Obligations.OnlyCaptureAndDeltaCaptureChangePend := by
  refine ⟨fun s t w h hne => ?_, fun s w rest hl hi => ?_, fun s w v rest hl hi => ?_⟩
  · rcases step_wheel_cases h with hw | ⟨i, rest, hi, ⟨c, hc, hx⟩ | ⟨w', b, rfl, rfl⟩ | ⟨d, rfl, rfl⟩⟩
    · exact absurd (congrArg WheelRegs.pend (hw w)) hne
    · refine ⟨i, rest, hi, .inr (.inl ?_)⟩
      rcases exec_pend w hx with ⟨rfl, hz, -⟩ | ⟨rfl, hz, -⟩ | ⟨-, -, hp⟩
      · exact ⟨by simp [Input.isDeltaCapture, hc], hz⟩
      · exact ⟨by simp [Input.isDeltaCapture, hc], hz⟩
      · exact absurd hp hne
    · by_cases hw : w = w'
      · subst hw
        exact ⟨_, rest, hi, .inl ⟨b, rfl⟩⟩
      · exact absurd (congrArg WheelRegs.pend (State.capture_wheel_of_ne _ b hw)) hne
    · exact ⟨_, rest, hi, .inr (.inr ⟨rfl, by rw [State.applyReset_wheel]; rfl⟩)⟩
  · rw [step_portRead hl hi, portRead_addr]
    rfl
  · exact step_portWrite_of_five_le hl hi (Nat.le_trans (by decide) (Reg.le_addr_wheel w .pend))

end Sys2Proof.Machine

/-! # The host port (20_memory.md): what a read returns and what a write does -/

namespace Sys2Proof.Machine

/-- The words of a wheel block read as the wheel's registers, in the order of their offsets (10_state.md R28). -/
theorem portRead_wheelBase_add_offset (s : State) (w : Wheel) (r : WheelReg) :
    portRead (BitVec.ofNat 7 (wheelBase w + r.offset)) s = (s.wheel w).read r :=
  portRead_addr (.wheel w r) s

/-- The step of a port write is the port write itself. -/
theorem step_portWrite {s : State} {a : PortAddr} {v : Word} {rest : List Input} (hl : s.params.legal = true)
    (hi : s.inputs = .live (.portWrite a v) :: rest) : step s = portWrite a v (s.setInputs rest) :=
  step_of_input hl hi

/-! ## The four addresses a write acts on (20_memory.md R63) -/

theorem portWrite_cmd (v : Word) (s : State) : portWrite Reg.cmd.addr v s = execute v s := by
  simp only [portWrite, Reg.ofAddr_addr]

theorem portWrite_arg0 (v : Word) (s : State) : portWrite Reg.arg0.addr v s = .next (s.setArg0 v) := by
  simp only [portWrite, Reg.ofAddr_addr]

theorem portWrite_arg1 (v : Word) (s : State) : portWrite Reg.arg1.addr v s = .next (s.setArg1 v) := by
  simp only [portWrite, Reg.ofAddr_addr]

theorem portWrite_arg2 (v : Word) (s : State) : portWrite Reg.arg2.addr v s = .next (s.setArg2 v) := by
  simp only [portWrite, Reg.ofAddr_addr]

/-! ## The obligations -/

/-- Settles O7: the map's addresses are those of the registers (`Reg.addr`), where `portRead_addr` gives the value;
a reserved address names no register. -/
theorem portReadFollowsTheRegisterMap : Obligations.PortReadFollowsTheRegisterMap := by
  refine ⟨fun s a rest hl hi => step_portRead hl hi, fun s => ?_, fun s w base hbase => ?_,
    fun s a ha => portRead_of_ofAddr_none s (Reg.ofAddr_reserved a ha), Reg.ofAddr_addr⟩
  · have hmap (r : Reg) := portRead_addr r s
    exact ⟨hmap .cmd, hmap .status, hmap .arg0, hmap .arg1, hmap .arg2, hmap .res0, hmap .res1, hmap .res2, hmap .res3⟩
  · obtain rfl : base = wheelBase w := hbase
    have hblock (r : WheelReg) := portRead_wheelBase_add_offset s w r
    exact ⟨hblock .abs, hblock .pend, hblock .kp, hblock .ki, hblock .kd, hblock .alpha, hblock .outMin,
      hblock .outMax, hblock .integ, hblock .prevErr, hblock .filtD, hblock .lastOut⟩

/-- Settles O9: the step is the port write, which has one rule for each of the four writable addresses and ignores
every other. -/
theorem portWriteActsOnCmdAndArgsOnly : Obligations.PortWriteActsOnCmdAndArgsOnly := by
  intro s a v rest hl hi
  rw [step_portWrite hl hi]
  refine ⟨?_, ?_, ?_, ?_, portWrite_ignored v _⟩
  · rintro rfl
    exact portWrite_cmd v _
  · rintro rfl
    exact portWrite_arg0 v _
  · rintro rfl
    exact portWrite_arg1 v _
  · rintro rfl
    exact portWrite_arg2 v _

end Sys2Proof.Machine

/-! # The command encoding (30_encoding.md): the rows of the opcode table and the illegal words

A word and its three fields determine each other (`CommandFields.toWord_ofWord`, `CommandFields.ofWord_toWord`), so
what a word decodes to is settled on its fields and carried to the words. -/

namespace Sys2Proof

/-! ## What the fields select (30_encoding.md R94, R95) -/

/-- Fields agree with those of a command when RSVD is zero and the other two do. -/
theorem CommandFields.eq_fields_of_func_of_wheel {f : CommandFields} {i : Instr} (hrsvd : f.rsvd = 0)
    (hfunc : f.func.toNat = i.fields.func.toNat) (hwheel : f.wheel = i.fields.wheel) : f = i.fields :=
  (CommandFields.mk.injEq ..).mpr ⟨BitVec.eq_of_toNat_eq hfunc, hwheel, hrsvd.trans i.fields_rsvd.symm⟩

theorem CommandFields.withoutWheel_eq_command_iff {f : CommandFields} {i j : Instr} :
    f.withoutWheel i = .command j ↔ f.wheel = 0 ∧ i = j := by
  unfold CommandFields.withoutWheel
  split
  · next h => simp only [Decoded.command.injEq, h, true_and]
  · next h => simp only [h, false_and, reduceCtorEq]

/-- A line of the table without an operand selects its command only for that command's fields. -/
theorem CommandFields.eq_fields_of_withoutWheel {f : CommandFields} {i j : Instr} (h : f.withoutWheel j = .command i)
    (hrsvd : f.rsvd = 0) (hfunc : f.func.toNat = j.fields.func.toNat) (hj : j.fields.wheel = 0) : f = i.fields := by
  obtain ⟨hwheel, rfl⟩ := withoutWheel_eq_command_iff.mp h
  exact eq_fields_of_func_of_wheel hrsvd hfunc (hwheel.trans hj.symm)

theorem Instr.decoded_fields (i : Instr) : i.fields.decoded = .command i := by
  cases i with
  | dcap w => exact congrArg (fun w => Decoded.command (.dcap w)) w.ofIndex_index
  | pidu w => exact congrArg (fun w => Decoded.command (.pidu w)) w.ofIndex_index
  | pidi w => exact congrArg (fun w => Decoded.command (.pidi w)) w.ofIndex_index
  | _ => rfl

/-- Fields that select a command are the command's own: the row gives FUNC, and WHEEL is the operand or 00. -/
theorem CommandFields.decoded_eq_command_iff {f : CommandFields} {i : Instr} :
    f.decoded = .command i ↔ f = i.fields := by
  refine ⟨fun h => ?_, fun h => h ▸ i.decoded_fields⟩
  have hrsvd : f.rsvd = 0 := by
    by_contra hr
    rw [decoded_of_rsvd_ne hr] at h
    cases h
  unfold decoded at h
  rw [if_neg (not_not.mpr hrsvd)] at h
  split at h
  · next hf => exact eq_fields_of_withoutWheel h hrsvd hf rfl
  · next hf => cases h; exact eq_fields_of_func_of_wheel hrsvd hf (Wheel.index_ofIndex _).symm
  · next hf => exact eq_fields_of_withoutWheel h hrsvd hf rfl
  · next hf => cases h; exact eq_fields_of_func_of_wheel hrsvd hf (Wheel.index_ofIndex _).symm
  · next hf => cases h; exact eq_fields_of_func_of_wheel hrsvd hf (Wheel.index_ofIndex _).symm
  · next hf => exact eq_fields_of_withoutWheel h hrsvd hf rfl
  · next hf => exact eq_fields_of_withoutWheel h hrsvd hf rfl
  · cases h

@[simp] theorem CommandFields.withoutWheel_illegal_iff {f : CommandFields} {i : Instr} :
    (∃ why, f.withoutWheel i = .illegal why) ↔ f.wheel ≠ 0 := by
  unfold CommandFields.withoutWheel
  split
  · next h => simp [h]
  · next h => exact iff_of_true ⟨_, rfl⟩ h

/-- R95 on the fields: RSVD first, then the lines of the table by FUNC. -/
theorem CommandFields.decoded_illegal_iff (f : CommandFields) : (∃ why, f.decoded = .illegal why) ↔
    f.rsvd ≠ 0 ∨ 0x7 ≤ f.func.toNat ∨ (f.func.toNat ∈ [0x0, 0x2, 0x5, 0x6] ∧ f.wheel ≠ 0) := by
  by_cases hr : f.rsvd = 0
  · rw [CommandFields.decoded, if_neg (not_not.mpr hr)]
    split
    case h_8 =>
      simp only [imp_false] at *
      exact iff_of_true ⟨_, rfl⟩ (.inr (.inl (by omega)))
    all_goals next hf => simp [hr, hf]
  · exact iff_of_true ⟨_, CommandFields.decoded_of_rsvd_ne hr⟩ (.inl hr)

/-! ## What a word decodes to -/

theorem CommandFields.toWord_injective : Function.Injective CommandFields.toWord :=
  Function.LeftInverse.injective CommandFields.ofWord_toWord

/-- A command has exactly one word. -/
theorem decode_eq_command_iff {v : Word} {i : Instr} : decode v = .command i ↔ v = encode i := by
  rw [decode_eq_decoded, CommandFields.decoded_eq_command_iff, ← CommandFields.toWord_injective.eq_iff,
    CommandFields.toWord_ofWord, encode]

theorem decode_illegal_iff {v : Word} : (∃ why, decode v = .illegal why) ↔ ∀ i, v ≠ encode i := by
  simp only [ne_eq, ← decode_eq_command_iff]
  cases decode v <;> simp

/-- The commands with their wheels, in the order of R94. -/
def allCommands : List Instr :=
  [.nop, .dcap .fl, .dcap .fr, .dcap .rr, .dcap .rl, .dcapa, .pidu .fl, .pidu .fr, .pidu .rr, .pidu .rl,
    .pidi .fl, .pidi .fr, .pidi .rr, .pidi .rl, .mix, .mixc]

theorem mem_allCommands (i : Instr) : i ∈ allCommands := by
  cases i with
  | dcap w => cases w <;> decide
  | pidu w => cases w <;> decide
  | pidi w => cases w <;> decide
  | _ => decide

theorem decode_illegal_iff_not_mem {v : Word} : (∃ why, decode v = .illegal why) ↔ v ∉ allCommands.map encode := by
  rw [decode_illegal_iff, List.mem_map]
  exact ⟨fun h ⟨i, _, hi⟩ => h i hi.symm, fun h i hi => h ⟨i, mem_allCommands i, hi.symm⟩⟩

/-! ## Mask and match (30_encoding.md R94) -/

/-- The mask of the per-wheel rows clears the WHEEL field and keeps the other two. -/
theorem CommandFields.toWord_and_wheelMask (f : CommandFields) :
    f.toWord &&& 0xFFFFFFCF = ({ f with wheel := 0 } : CommandFields).toWord := by
  have hmask : (0xFFFFFFCF : Word) = BitVec.allOnes 26 ++ 0#2 ++ BitVec.allOnes 4 := by decide
  rw [hmask, CommandFields.toWord, BitVec.and_append, BitVec.and_append, BitVec.and_allOnes, BitVec.and_zero,
    BitVec.and_allOnes]
  rfl

/-- A word matches a per-wheel row when it is the row's word of some wheel. -/
theorem and_wheelMask_eq_iff {v : Word} {f : CommandFields} (hf : f.wheel = 0) :
    v &&& 0xFFFFFFCF = f.toWord ↔ ∃ w : Wheel, v = ({ f with wheel := w.index } : CommandFields).toWord := by
  constructor
  · intro h
    rw [← CommandFields.toWord_ofWord v, CommandFields.toWord_and_wheelMask] at h
    refine ⟨.ofIndex (CommandFields.ofWord v).wheel, ?_⟩
    rw [Wheel.index_ofIndex, ← CommandFields.toWord_injective h, CommandFields.toWord_ofWord]
  · rintro ⟨w, rfl⟩
    rw [CommandFields.toWord_and_wheelMask, ← hf]

/-- The row of a command without a wheel: its mask is all ones. -/
theorem decode_eq_command_iff_and {v : Word} {i : Instr} : decode v = .command i ↔ v &&& 0xFFFFFFFF = encode i := by
  rw [decode_eq_command_iff, show (0xFFFFFFFF : Word) = BitVec.allOnes 32 by decide, BitVec.and_allOnes]

/-- The row of a per-wheel command `c`: its match is the word of `c` with wheel 0. -/
theorem exists_decode_eq_command_iff_and {v : Word} {c : Wheel → Instr} {func : BitVec 4}
    (hc : ∀ w, (c w).fields = ⟨func, w.index, 0⟩) :
    (∃ w, decode v = .command (c w)) ↔ v &&& 0xFFFFFFCF = encode (c .fl) := by
  rw [encode, hc, and_wheelMask_eq_iff (by rfl)]
  simp only [decode_eq_command_iff, encode, hc]

end Sys2Proof

namespace Sys2Proof.Machine

/-! ## The obligations -/

/-- Settles O2: each row is `decode_eq_command_iff_and` or `exists_decode_eq_command_iff_and` at its command, each
wheel's word is `encode`, and a word of no row decodes to no command. -/
theorem maskAndMatchSelectTheRow : Obligations.MaskAndMatchSelectTheRow := by
  intro v
  have hnop : decode v = .command .nop ↔ v &&& 0xFFFFFFFF = 0x00000000 := decode_eq_command_iff_and
  have hdcap : (∃ w, decode v = .command (.dcap w)) ↔ v &&& 0xFFFFFFCF = 0x00000001 :=
    exists_decode_eq_command_iff_and fun _ => rfl
  have hdcapa : decode v = .command .dcapa ↔ v &&& 0xFFFFFFFF = 0x00000002 := decode_eq_command_iff_and
  have hpidu : (∃ w, decode v = .command (.pidu w)) ↔ v &&& 0xFFFFFFCF = 0x00000003 :=
    exists_decode_eq_command_iff_and fun _ => rfl
  have hpidi : (∃ w, decode v = .command (.pidi w)) ↔ v &&& 0xFFFFFFCF = 0x00000004 :=
    exists_decode_eq_command_iff_and fun _ => rfl
  have hmix : decode v = .command .mix ↔ v &&& 0xFFFFFFFF = 0x00000005 := decode_eq_command_iff_and
  have hmixc : decode v = .command .mixc ↔ v &&& 0xFFFFFFFF = 0x00000006 := decode_eq_command_iff_and
  have hw {i : Instr} := decode_eq_command_iff (v := v) (i := i)
  refine ⟨hnop, hdcap, hdcapa, hpidu, hpidi, hmix, hmixc, hw, hw, hw, hw, hw, hw, hw, hw, hw, hw, hw, hw, ?_⟩
  simp only [ne_eq, ← hnop, ← hdcap, ← hdcapa, ← hpidu, ← hpidi, ← hmix, ← hmixc]
  cases decode v with
  | illegal why => simp
  | command i => cases i <;> simp

/-- Settles O3: the field conditions are `CommandFields.decoded_illegal_iff`, the 16 words are those of `allCommands`. -/
theorem illegalWordsAreAllButSixteen : Obligations.IllegalWordsAreAllButSixteen := by
  intro v
  refine ⟨CommandFields.decoded_illegal_iff (CommandFields.ofWord v), decode_illegal_iff_not_mem, ?_⟩
  rintro ⟨why, h⟩ s
  exact execute_illegal h

end Sys2Proof.Machine

/-! # The encoder counters (40_encoder.md): capture events and delta captures

A counter moves by adding a word to its register, so wrapping modulo 2^32 (R115) is addition of words. -/

namespace Sys2Proof.Machine

/-! ## Words and integers modulo 2^32 -/

theorem toWord_add (x y : Int) : toWord (x + y) = toWord x + toWord y := BitVec.ofInt_add x y

/-- The wrapped difference of two readings is the signed value of the difference of the words. -/
theorem wrap32_s32_sub (v u : Word) : wrap32 (s32 v - s32 u) = s32 (v - u) := by
  rw [← s32_toWord]
  exact (BitVec.toInt_ofInt ..).trans (BitVec.toInt_sub ..).symm

theorem wrap32_add_sub_emod (x d : Int) : (wrap32 (x + d) - x - d) % 4294967296 = 0 := by
  unfold wrap32
  omega

/-! ## A capture event (R111, R112, R115) -/

section Count

variable (k : WheelRegs) (b : Bool)

theorem WheelRegs.s32_count_abs : s32 (k.count b).abs = wrap32 (s32 k.abs + tick b) := by
  rw [WheelRegs.count_abs, s32_toWord_of_fits (wrap32_fits _)]

theorem WheelRegs.s32_count_pend : s32 (k.count b).pend = wrap32 (s32 k.pend + tick b) := by
  rw [WheelRegs.count_pend, s32_toWord_of_fits (wrap32_fits _)]

theorem WheelRegs.count_abs_eq_add : (k.count b).abs = k.abs + toWord (tick b) := by
  rw [WheelRegs.count_abs, toWord_wrap32, toWord_add, toWord_s32]

theorem WheelRegs.count_pend_eq_add : (k.count b).pend = k.pend + toWord (tick b) := by
  rw [WheelRegs.count_pend, toWord_wrap32, toWord_add, toWord_s32]

end Count

/-- A forward tick takes the largest count to the smallest. -/
theorem maxWord_add_tick : (0x7FFFFFFF : Word) + toWord (tick true) = 0x80000000 := by decide

/-- A backward tick takes the smallest count to the largest. -/
theorem minWord_add_tick : (0x80000000 : Word) + toWord (tick false) = 0x7FFFFFFF := by decide

/-- Settles O13: the step is `State.capture`, whose frame is `State.capture_frame`, and the wheel's counters are
those of `WheelRegs.count`. -/
theorem captureCountsBothCounters : Obligations.CaptureCountsBothCounters := by
  intro s w b rest hl hi
  refine ⟨(s.setInputs rest).capture w b, step_of_input hl hi, ?_⟩
  rw [State.capture_wheel_self, State.wheel_setInputs]
  refine ⟨WheelRegs.s32_count_abs _ b, WheelRegs.s32_count_pend _ b, ?_, ?_, ?_, ?_, State.capture_frame _ w b⟩
  · rintro ha rfl
    rw [WheelRegs.count_abs_eq_add, ha, maxWord_add_tick]
  · rintro ha rfl
    rw [WheelRegs.count_abs_eq_add, ha, minWord_add_tick]
  · rintro hp rfl
    rw [WheelRegs.count_pend_eq_add, hp, maxWord_add_tick]
  · rintro hp rfl
    rw [WheelRegs.count_pend_eq_add, hp, minWord_add_tick]

/-! ## ABS along a run (R115) -/

theorem ticks_capture_self (w : Wheel) (b : Bool) (is : List Input) :
    ticks w (.live (.capture w b) :: is) = tick b + ticks w is := by
  simp only [ticks, if_true]

/-- An input that carries a command is no capture event. -/
theorem Input.ne_capture_of_command {i : Input} {c : Instr} (h : i.command = some c) (w : Wheel) (b : Bool) :
    i ≠ .live (.capture w b) := by
  rintro rfl
  cases h

/-- An input other than reset leaves ABS alone, or is a capture event of the wheel and counts. -/
theorem accept_abs_cases {i : Input} {s t : State} (w : Wheel) (hr : i.isReset = false) (h : accept i s = .next t) :
    (∃ b, i = .live (.capture w b) ∧ (t.wheel w).abs = (s.wheel w).abs + toWord (tick b))
      ∨ ((∀ b, i ≠ .live (.capture w b)) ∧ (t.wheel w).abs = (s.wheel w).abs) := by
  rcases accept_wheel_cases h with ⟨c, hc, hx⟩ | ⟨w', b, rfl, rfl⟩ | ⟨d, rfl, -⟩ | ⟨-, -, hn, hw⟩
  · exact .inr ⟨Input.ne_capture_of_command hc w, (exec_sameBase hx).abs w⟩
  · by_cases hw : w' = w
    · subst hw
      exact .inl ⟨b, rfl, by rw [State.capture_wheel_self, WheelRegs.count_abs_eq_add]⟩
    · exact .inr ⟨by simp [hw], by rw [State.capture_wheel_of_ne s b (Ne.symm hw)]⟩
  · cases hr
  · exact .inr ⟨hn w, by rw [hw]⟩

/-- Over a run without reset ABS moves by the run's ticks of the wheel. -/
theorem runEnd_abs {s : State} (w : Wheel) {is : List Input} (hl : s.params.legal = true)
    (hr : ∀ i ∈ is, i.isReset = false) : ((runEnd s is).wheel w).abs = (s.wheel w).abs + toWord (ticks w is) := by
  induction is generalizing s with
  | nil => exact (BitVec.add_zero _).symm
  | cons i is ih =>
    obtain ⟨hri, hris⟩ := List.forall_mem_cons.mp hr
    obtain ⟨t, ha, hs, hp, -⟩ := run_first i hl
    rw [runEnd_cons is hs, ih (by rw [hp]; exact hl) hris]
    rcases accept_abs_cases w hri ha with ⟨b, rfl, habs⟩ | ⟨hn, habs⟩
    · rw [habs, ticks_capture_self, toWord_add, BitVec.add_assoc, State.wheel_setInputs]
    · rw [habs, ticks_cons_of_ne is hn, State.wheel_setInputs]

/-- Settles O14: the difference of the two readings of ABS is the word of the run's ticks (`runEnd_abs`), which is read
back as an integer where that fits a register. -/
theorem countersWrapAndDifferencesRecoverTicks : Obligations.CountersWrapAndDifferencesRecoverTicks := by
  refine ⟨fun s w b t h => ?_, fun s w is hl hr hb => ?_⟩
  · cases h
    rw [State.capture_wheel_self, WheelRegs.s32_count_abs, WheelRegs.s32_count_pend]
    exact ⟨wrap32_add_sub_emod _ (tick b), wrap32_add_sub_emod _ (tick b), rfl⟩
  · have hfits : Fits (ticks w is) := ⟨by omega, by omega⟩
    rw [wrap32_s32_sub, runEnd_abs w hl hr, BitVec.add_comm, BitVec.add_sub_cancel, s32_toWord_of_fits hfits]

/-! ## Delta captures (R121, R122) -/

/-- A frame without the registers that read as before. -/
theorem State.unchangedExcept.of_read_eq {s t : State} {regs regs' : List Reg} (h : s.unchangedExcept t regs)
    (hr : ∀ r ∈ regs, r ∉ regs' → t.read r = s.read r) : s.unchangedExcept t regs' := by
  have ⟨_, hp, hi, hrep⟩ := h
  refine State.unchangedExcept_of_read (fun r hr' => ?_) hp hi hrep
  by_cases hm : r ∈ regs
  · exact hr r hm hr'
  · exact h.read_eq hm

theorem WheelRegs.read_clearPend (k : WheelRegs) {q : WheelReg} (h : q ≠ .pend) : k.clearPend.read q = k.read q := by
  cases q <;> first | rfl | exact absurd rfl h

theorem State.read_clearAllPend (s : State) {r : Reg} (h : ∀ w, r ≠ .wheel w .pend) :
    s.clearAllPend.read r = s.read r := by
  cases r with
  | wheel w q =>
    simp only [State.read, State.wheel_clearAllPend]
    exact WheelRegs.read_clearPend _ fun hq => h w (hq ▸ rfl)
  | _ => rfl

/-- What DCAP of a wheel writes. -/
theorem exec_dcap_writes {w : Wheel} {s t : State} (h : exec (.dcap w) s = .next t) :
    t.res0 = (s.wheel w).pend ∧ (t.wheel w).pend = 0 ∧ t.status = 0 := by
  rw [exec, execDcap_eq] at h
  cases h
  simp

theorem exec_dcap_frame {w : Wheel} {s t : State} (h : exec (.dcap w) s = .next t) :
    s.unchangedExcept t [.res0, .wheel w .pend, .status] := by
  rw [exec, execDcap_eq] at h
  cases h
  refine State.unchangedExcept_of_read (fun r hr => ?_) rfl rfl rfl
  simp only [List.mem_cons, List.not_mem_nil, or_false, not_or] at hr
  obtain ⟨hres, hpend, hstatus⟩ := hr
  rw [State.read_setStatus, if_neg hstatus,
    State.read_setWheel_of_forall (regs := [.wheel w .pend]) _ (fun q hq => ?_) (by simpa using hpend),
    State.read_setRes0, if_neg hres]
  exact WheelRegs.read_clearPend _ (by simpa using hq)

theorem exec_dcapa_frame {s t : State} (h : exec .dcapa s = .next t) :
    s.unchangedExcept t [.res0, .res1, .res2, .res3, .wheel .fl .pend, .wheel .fr .pend, .wheel .rr .pend,
      .wheel .rl .pend, .status] := by
  rw [exec, execDcapa_eq] at h
  cases h
  refine State.unchangedExcept_of_read (fun r hr => ?_) rfl rfl rfl
  simp only [List.mem_cons, List.not_mem_nil, or_false, not_or] at hr
  obtain ⟨h0, h1, h2, h3, hfl, hfr, hrr, hrl, hstatus⟩ := hr
  have hpend (w : Wheel) : r ≠ .wheel w .pend := by cases w <;> assumption
  rw [State.read_setStatus, if_neg hstatus, State.read_clearAllPend _ hpend,
    State.read_setRes_of_not_mem _ _ _ _ _ (by simp [h0, h1, h2, h3])]

/-- The word of DCAP has FUNC 1 in bits 3:0 and the wheel in bits 5:4 (30_encoding.md R92, R94). -/
theorem encode_dcap (w : Wheel) : encode (.dcap w) = 0x00000001 ||| (w.index.zeroExtend 32 <<< 4) := by
  cases w <;> decide

/-- Settles O16: the second DCAP finds PEND and STATUS at 0 and writes them 0 again, so its frame shrinks to RES0. -/
theorem dcapReturnsAndClearsTheDelta : Obligations.DcapReturnsAndClearsTheDelta := by
  intro s w
  refine ⟨?_, decode_eq_command_iff.mpr (encode_dcap w).symm⟩
  obtain ⟨t, ht⟩ := exec_next (.dcap w) s
  obtain ⟨t2, ht2⟩ := exec_next (.dcap w) t
  obtain ⟨hres, hpend, hstatus⟩ := exec_dcap_writes ht
  obtain ⟨hres2, hpend2, hstatus2⟩ := exec_dcap_writes ht2
  refine ⟨t, ht, hres, hpend, hstatus, exec_dcap_frame ht, t2, ht2, hres2.trans hpend,
    (exec_dcap_frame ht2).of_read_eq fun r hr hn => ?_⟩
  simp only [List.mem_cons, List.not_mem_nil, or_false] at hr hn
  rcases hr with rfl | rfl | rfl
  · exact absurd rfl hn
  · exact hpend2.trans hpend.symm
  · exact hstatus2.trans hstatus.symm

/-- Settles O17: DCAPA writes RES0 to RES3, clears every PEND and writes STATUS, and `exec_dcapa_frame` is its frame. -/
theorem dcapaSamplesAllWheelsAtOnce : Obligations.DcapaSamplesAllWheelsAtOnce := by
  refine ⟨fun s => ?_, decode_eq_command_iff.mpr rfl⟩
  refine ⟨_, execDcapa_eq s, rfl, rfl, rfl, rfl, fun w => ?_, rfl, exec_dcapa_frame (execDcapa_eq s)⟩
  rw [State.wheel_setStatus, State.wheel_clearAllPend, WheelRegs.clearPend_pend]

end Sys2Proof.Machine

/-! # The PID commands (41_pid.md): an update, a hold, and clearing a wheel's PID state

A held PIDU is `exec_pidu_hold_spec`; a PIDU that is not held commits `pidUpdate` (`exec_pidu_of_pos`).
LAST_OUT is followed over a run one input at a time (`accept_lastOut`). -/

namespace Sys2Proof.Machine

/-! ## The clamp (00_scope.md R10) -/

theorem clampmm_of_gt {x lo hi : Int} (h : x > hi) : clampmm x lo hi = hi := if_pos h

theorem clampmm_of_lt {x lo hi : Int} (hhi : ¬ x > hi) (hlo : x < lo) : clampmm x lo hi = lo :=
  (if_neg hhi).trans (if_pos hlo)

theorem clampmm_of_mem {x lo hi : Int} (hlo : lo ≤ x) (hhi : x ≤ hi) : clampmm x lo hi = x :=
  (if_neg (by omega)).trans (if_neg (by omega))

/-- With the bounds reversed every value is outside one of them (41_pid.md R145). -/
theorem clampmm_of_reversed {x lo hi : Int} (h : hi < lo) : clampmm x lo hi = if x > hi then hi else lo := by
  split
  · next hx => exact clampmm_of_gt hx
  · next hx => exact clampmm_of_lt hx (by omega)

/-! ## STATUS after a PIDU that is not held (41_pid.md R146) -/

theorem piduStatus_ne_statusDtz (b : Bool) : piduStatus b ≠ statusDtz := by
  cases b <;> decide

@[simp] theorem State.pidCommit_sat (s : State) (w : Wheel) (p : PidUpdate) : (s.pidCommit w p).sat = p.sat := by
  rw [State.sat, State.pidCommit_status]
  cases p.sat <;> rfl

theorem pidCommit_status_of_sat {s : State} {w : Wheel} {p : PidUpdate} (h : p.sat = true) :
    (s.pidCommit w p).status = statusSat := by
  rw [State.pidCommit_status, h]
  rfl

theorem pidCommit_status_of_not_sat {s : State} {w : Wheel} {p : PidUpdate} (h : ¬ p.sat = true) :
    (s.pidCommit w p).status = 0 := by
  rw [State.pidCommit_status, eq_false_of_ne_true h]
  rfl

/-! ## PIDU -/

theorem exec_pidu_of_hold {s : State} {w : Wheel} (h : s32 s.arg2 ≤ 0) : exec (.pidu w) s = .next (s.pidHold w) :=
  execPidu_of_hold h

theorem exec_pidu_of_pos {s : State} {w : Wheel} (h : 0 < s32 s.arg2) : exec (.pidu w) s =
    .next (s.pidCommit w (pidUpdate (s.wheel w) (s32 s.arg0) (s32 s.arg1) (s32 s.arg2))) :=
  execPidu_of_pos h

/-- A held PIDU returns LAST_OUT, reports DTZ and writes nothing else (41_pid.md R143). -/
theorem exec_pidu_hold_spec {s : State} (w : Wheel) (h : s32 s.arg2 ≤ 0) :
    ∃ t, exec (.pidu w) s = .next t ∧ t.res0 = (s.wheel w).lastOut ∧ t.status = statusDtz
      ∧ s.unchangedExcept t [.res0, .status] :=
  ⟨s.pidHold w, exec_pidu_of_hold h, s.pidHold_res0 w, s.pidHold_status w, s.pidHold_frame w⟩

/-- The register value of the saturated output is the clamped output (41_pid.md R142, step 6). -/
theorem s32_toWord_pidUpdate_y (k : WheelRegs) (t m dt : Int) :
    s32 (toWord (pidUpdate k t m dt).y) = clampmm (pidUpdate k t m dt).u (s32 k.outMin) (s32 k.outMax) := by
  rw [s32_toWord_of_fits (pidUpdate_y_fits k t m dt), pidUpdate_y]

/-- Without saturation the candidate integral is committed (41_pid.md R144). -/
theorem pidCommit_integ_of_not_sat {s : State} {w : Wheel} {p : PidUpdate} (h : ¬ p.sat = true) :
    ((s.pidCommit w p).wheel w).integ = toWord p.candI := by
  rw [State.pidCommit_wheel_self, WheelRegs.afterUpdate_integ, if_neg h]

/-- The word of PIDU has FUNC 3 in bits 3:0 and the wheel in bits 5:4 (30_encoding.md R92, R94). -/
theorem encode_pidu (w : Wheel) : encode (.pidu w) = 0x00000003 ||| (w.index.zeroExtend 32 <<< 4) := by
  cases w <;> decide

/-- Settles O23: the algorithm's integers are the fields of `pidUpdate`, each of which fits the register it is
written to. -/
theorem piduFollowsTheAlgorithm : Obligations.PiduFollowsTheAlgorithm := by
  intro s w
  refine ⟨exec_pidu_hold_spec w, fun hpos dt e candI rawD a fD u lo hi hdt he hcandI hrawD ha hfD hu hlo hhi => ?_,
    decode_eq_command_iff.mpr (encode_pidu w).symm⟩
  subst hdt he hcandI hrawD ha hfD hlo hhi
  have hy := s32_toWord_pidUpdate_y (s.wheel w) (s32 s.arg0) (s32 s.arg1) (s32 s.arg2)
  have hsat := pidUpdate_sat (s.wheel w) (s32 s.arg0) (s32 s.arg1) (s32 s.arg2)
  rw [pidUpdate_u, pidUpdate_e, pidUpdate_candI, pidUpdate_fD, ← hu] at hy hsat
  refine ⟨_, exec_pidu_of_pos hpos, hy, ?_, ?_, ?_, fun hout => ?_, fun hin => ?_, s.pidCommit_frame w _⟩
  · rw [State.pidCommit_wheel_self]
    exact hy
  · rw [State.pidCommit_wheel_self]
    exact s32_toWord_of_fits (pidUpdate_e_fits _ _ _ _)
  · rw [State.pidCommit_wheel_self]
    exact s32_toWord_of_fits (pidUpdate_fD_fits _ _ _ _)
  · have hs := hsat.mpr hout
    exact ⟨pidCommit_integ_of_sat hs w, pidCommit_status_of_sat hs⟩
  · have hs := mt hsat.mp hin
    rw [pidCommit_integ_of_not_sat hs]
    exact ⟨s32_toWord_of_fits (pidUpdate_candI_fits _ _ _ _), pidCommit_status_of_not_sat hs⟩

/-- Settles O25: RES0 is the clamped output, SAT is `pidUpdate_sat`, and with the bounds reversed every output lies
outside one of them. -/
theorem saturationAtTheBounds : Obligations.SaturationAtTheBounds := by
  intro s w u lo hi hpos hu hlo hhi
  have hy := s32_toWord_pidUpdate_y (s.wheel w) (s32 s.arg0) (s32 s.arg1) (s32 s.arg2)
  have hsat := pidUpdate_sat (s.wheel w) (s32 s.arg0) (s32 s.arg1) (s32 s.arg2)
  rw [← hu, ← hlo, ← hhi] at hy hsat
  refine ⟨_, exec_pidu_of_pos hpos, ?_⟩
  rw [State.pidCommit_sat, State.pidCommit_res0, hy]
  refine ⟨hsat, clampmm_of_gt, clampmm_of_lt, clampmm_of_mem, fun hrev => ?_⟩
  have hs := hsat.mpr (by omega)
  exact ⟨hs, pidCommit_integ_of_sat hs w, clampmm_of_reversed hrev⟩

/-! ## PIDI -/

theorem WheelRegs.read_clearPid (k : WheelRegs) {q : WheelReg} (h : q ∉ [.integ, .prevErr, .filtD, .lastOut]) :
    k.clearPid.read q = k.read q := by
  cases q <;> first | rfl | simp at h

theorem exec_pidi_eq (s : State) (w : Wheel) :
    exec (.pidi w) s = .next ((s.setWheel w (s.wheel w).clearPid).setStatus 0) :=
  execPidi_eq w s

theorem exec_pidi_wheel {s t : State} {w : Wheel} (h : exec (.pidi w) s = .next t) :
    t.wheel w = (s.wheel w).clearPid := by
  rw [exec_pidi_eq] at h
  cases h
  rw [State.wheel_setStatus, State.wheel_setWheel_self]

theorem exec_pidi_status {s t : State} {w : Wheel} (h : exec (.pidi w) s = .next t) : t.status = 0 := by
  rw [exec_status h]
  exact StatusFields.word_none

theorem exec_pidi_frame {s t : State} {w : Wheel} (h : exec (.pidi w) s = .next t) :
    s.unchangedExcept t [.wheel w .integ, .wheel w .prevErr, .wheel w .filtD, .wheel w .lastOut, .status] := by
  rw [exec_pidi_eq] at h
  cases h
  refine State.unchangedExcept_of_read (fun r hr => ?_) rfl rfl rfl
  have hstatus : r ≠ .status := fun h => hr (by simp [h])
  rw [State.read_setStatus, if_neg hstatus]
  exact State.read_setWheel_of_forall _ (fun q hq => WheelRegs.read_clearPid _ (by simpa using hq)) hr

/-- The word of PIDI has FUNC 4 in bits 3:0 and the wheel in bits 5:4 (30_encoding.md R92, R94). -/
theorem encode_pidi (w : Wheel) : encode (.pidi w) = 0x00000004 ||| (w.index.zeroExtend 32 <<< 4) := by
  cases w <;> decide

/-- Settles O26: PIDI clears LAST_OUT and keeps ARG2, so the PIDU after it is held and returns the cleared
register. -/
theorem pidiClearsOneWheelsState : Obligations.PidiClearsOneWheelsState := by
  intro s w
  refine ⟨?_, decode_eq_command_iff.mpr (encode_pidi w).symm⟩
  obtain ⟨t, ht⟩ := exec_next (.pidi w) s
  have hw := exec_pidi_wheel ht
  have hlast : (t.wheel w).lastOut = 0 := by rw [hw, WheelRegs.clearPid_lastOut]
  refine ⟨t, ht, by rw [hw, WheelRegs.clearPid_integ], by rw [hw, WheelRegs.clearPid_prevErr],
    by rw [hw, WheelRegs.clearPid_filtD], hlast, exec_pidi_status ht, exec_pidi_frame ht, fun hdt => ?_⟩
  rw [← (exec_sameBase ht).arg2] at hdt
  obtain ⟨t2, ht2, hres, -, -⟩ := exec_pidu_hold_spec w hdt
  exact ⟨t2, ht2, hres.trans hlast⟩

/-! ## LAST_OUT along a run (R143) -/

/-- What a command does to LAST_OUT: PIDI of the wheel clears it, a PIDU of it that did not report DTZ writes what it
returned, no other command touches it. -/
theorem exec_lastOut {c : Instr} {s t : State} (w : Wheel) (h : exec c s = .next t) : (t.wheel w).lastOut =
    if c = .pidi w then 0 else if c = .pidu w ∧ t.status ≠ statusDtz then t.res0 else (s.wheel w).lastOut := by
  by_cases hi : c = .pidi w
  · subst hi
    rw [if_pos rfl, exec_pidi_wheel h, WheelRegs.clearPid_lastOut]
  rw [if_neg hi]
  by_cases hu : c = .pidu w
  · subst hu
    rcases exec_pidu_cases h with ⟨-, rfl⟩ | ⟨-, rfl⟩
    · rw [if_pos ⟨rfl, piduStatus_ne_statusDtz _⟩, State.pidCommit_wheel_self]
      rfl
    · rw [if_neg (fun hd => hd.2 rfl), State.pidHold_wheel]
  · obtain ⟨-, -, -, hlast⟩ := exec_samePid h hu hi
    rw [if_neg (fun hd => hu hd.1), hlast]

/-- What an input does to LAST_OUT is what `lastOutput` says of it. -/
theorem accept_lastOut {i : Input} {s t : State} (w : Wheel) (h : accept i s = .next t) :
    (t.wheel w).lastOut = lastOutput w [(i, t)] (s.wheel w).lastOut := by
  rcases accept_wheel_cases h with ⟨c, hc, hx⟩ | ⟨w', b, rfl, rfl⟩ | ⟨d, rfl, rfl⟩ | ⟨hc, hr, -, hw⟩
  · simp [lastOutput, Input.isReset_of_command hc, hc, exec_lastOut w hx]
  · by_cases hw : w = w'
    · subst hw
      rw [State.capture_wheel_self]
      rfl
    · rw [State.capture_wheel_of_ne s b hw]
      rfl
  · rw [State.applyReset_wheel]
    rfl
  · simp [lastOutput, hr, hc, hw]

/-- After a run LAST_OUT is the last output of its trace, and the register before where the trace holds none. -/
theorem runEnd_lastOut {s : State} (w : Wheel) (is : List Input) (hl : s.params.legal = true) :
    ((runEnd s is).wheel w).lastOut = lastOutput w (runTrace s is) (s.wheel w).lastOut := by
  induction is generalizing s with
  | nil => rfl
  | cons i is ih =>
    obtain ⟨t, ha, hs, hp, -⟩ := run_first i hl
    rw [runEnd_cons is hs, runTrace_cons is hs, ih (by rw [hp]; exact hl), accept_lastOut w ha]
    rfl

/-- Settles O24: a hold is `exec_pidu_hold_spec`, and LAST_OUT of a run that starts at its reset value 0 is
`runEnd_lastOut`. -/
theorem heldPiduReturnsTheLastOutput : Obligations.HeldPiduReturnsTheLastOutput := by
  refine ⟨fun s w h => exec_pidu_hold_spec w h, fun p w is hp => ?_⟩
  rw [runEnd_lastOut (s := State.resetWith p) w is hp, State.wheel_resetWith]
  rfl

end Sys2Proof.Machine

/-! # The mixer (42_mixer.md): quotients truncated toward zero, MIX and MIXC

One scaled quotient at a time comes first (R166), then which sums are normalized (R165), then what the two commands
write. -/

namespace Sys2Proof.Machine

/-! ## One normalized result (R166) -/

section Quotient

variable {m big : Int}

theorem tdiv_scaled_self (hb : 0 < big) : tdiv (big * 65536) big = 65536 := by
  rw [tdiv_eq, Int.mul_tdiv_cancel_left _ hb.ne']

theorem tdiv_scaled_neg_self (hb : 0 < big) : tdiv (-big * 65536) big = -65536 := by
  rw [tdiv_eq, neg_mul, Int.neg_tdiv, Int.mul_tdiv_cancel_left _ hb.ne']

/-- What truncation drops is the remainder, which is smaller than the divisor. -/
theorem tdiv_scaled_error_lt (m : Int) (hb : 0 < big) : |tdiv (m * 65536) big * big - m * 65536| < big := by
  have hdiv := Int.mul_tdiv_add_tmod (m * 65536) big
  have hlt := Int.tmod_lt_of_pos (m * 65536) hb
  have hgt := Int.lt_tmod_of_pos (m * 65536) hb
  rw [tdiv_eq, Int.mul_comm, abs_lt]
  omega

/-- A sum below the magnitude has a result below 1.0: the quotient is no further from 0 than the exact one. -/
theorem abs_tdiv_scaled_lt (h : |m| < big) : |tdiv (m * 65536) big| < 65536 := by
  rw [Int.abs_eq_natAbs] at h
  have hdiv : (m * 65536).natAbs / big.natAbs < 65536 := Nat.div_lt_of_lt_mul (by omega)
  have hquot : (Int.tdiv (m * 65536) big).natAbs = (m * 65536).natAbs / big.natAbs := Int.natAbs_tdiv ..
  rw [tdiv_eq, Int.abs_eq_natAbs]
  omega

theorem tdiv_scaled_sign (m : Int) (hb : 0 < big) :
    tdiv (m * 65536) big = 0 ∨ (tdiv (m * 65536) big).sign = m.sign := by
  have hsign := Int.sign_tdiv (m * 65536) big
  rw [Int.sign_mul, Int.sign_eq_one_of_pos (by decide : (0 : Int) < 65536), Int.sign_eq_one_of_pos hb, mul_one,
    mul_one] at hsign
  rw [tdiv_eq]
  split at hsign
  · exact .inl (Int.sign_eq_zero_iff_zero.mp hsign)
  · exact .inr hsign

end Quotient

/-! ## Which sums are normalized (R165) -/

section Sums

variable {m0 m1 m2 m3 : Int}

theorem normalizeSums_of_le (h : mixMagnitude m0 m1 m2 m3 ≤ 65536) :
    normalizeSums m0 m1 m2 m3 = ⟨m0, m1, m2, m3, false⟩ := if_neg (by omega)

theorem normalizeSums_of_gt (h : 65536 < mixMagnitude m0 m1 m2 m3) : normalizeSums m0 m1 m2 m3 =
    ⟨tdiv (m0 * 65536) (mixMagnitude m0 m1 m2 m3), tdiv (m1 * 65536) (mixMagnitude m0 m1 m2 m3),
      tdiv (m2 * 65536) (mixMagnitude m0 m1 m2 m3), tdiv (m3 * 65536) (mixMagnitude m0 m1 m2 m3), true⟩ := if_pos h

theorem normalizeSums_norm_iff : (normalizeSums m0 m1 m2 m3).norm = true ↔ 65536 < mixMagnitude m0 m1 m2 m3 := by
  by_cases h : 65536 < mixMagnitude m0 m1 m2 m3
  · simp [normalizeSums_of_gt h, h]
  · simp [normalizeSums_of_le (Int.not_lt.mp h), h]

end Sums

/-- A mix without rotation normalizes only when |vx| + |vy| exceeds 1.0: its sums are vx - vy and vx + vy (R174). -/
theorem lt_abs_add_abs_of_mixCore_norm {vx vy : Int} (h : (mixCore vx vy 0).norm = true) : 65536 < |vx| + |vy| := by
  rw [mixCore, normalizeSums_norm_iff, mixMagnitude_eq] at h
  simp only [sub_zero, add_zero, max_self] at h
  have hsub := abs_sub vx vy
  have hadd := abs_add_le vx vy
  omega

/-- Settles O33: each result is a scaled quotient by the magnitude, to which the lemmas of R166 apply. -/
theorem normalizationTruncatesTowardZero : Obligations.NormalizationTruncatesTowardZero := by
  intro m0 m1 m2 m3 big hbig hlt
  rw [← mixMagnitude_eq] at hbig
  have hb : 0 < big := by omega
  rw [normalizeSums_of_gt (hbig ▸ hlt), ← hbig]
  refine ⟨rfl, fun x hx => ?_⟩
  have hquot : x.2 = tdiv (x.1 * 65536) big := by
    simp only [List.mem_cons, List.not_mem_nil, or_false] at hx
    rcases hx with rfl | rfl | rfl | rfl <;> rfl
  rw [hquot]
  exact ⟨rfl, fun h => by rw [h, tdiv_scaled_self hb], fun h => by rw [h, tdiv_scaled_neg_self hb],
    abs_tdiv_scaled_lt, tdiv_scaled_error_lt x.1 hb, tdiv_scaled_sign x.1 hb⟩

/-! ## MIX (R161 to R167) -/

theorem exec_mix_eq (s : State) : exec .mix s =
    .next ((s.setMixed (mixCore (s32 s.arg0) (s32 s.arg1) (s32 s.arg2))).setStatus
      (mixStatus (mixCore (s32 s.arg0) (s32 s.arg1) (s32 s.arg2)).norm)) :=
  execMix_eq s

/-- The result registers hold the mix exactly, since its results fit them. -/
theorem s32_res_setMixed_mixCore (s : State) (vx vy wz : Int) (v : Word) :
    s32 ((s.setMixed (mixCore vx vy wz)).setStatus v).res0 = (mixCore vx vy wz).r0
      ∧ s32 ((s.setMixed (mixCore vx vy wz)).setStatus v).res1 = (mixCore vx vy wz).r1
      ∧ s32 ((s.setMixed (mixCore vx vy wz)).setStatus v).res2 = (mixCore vx vy wz).r2
      ∧ s32 ((s.setMixed (mixCore vx vy wz)).setStatus v).res3 = (mixCore vx vy wz).r3 := by
  obtain ⟨h0, h1, h2, h3⟩ := mixCore_fits vx vy wz
  exact ⟨s32_toWord_of_fits h0, s32_toWord_of_fits h1, s32_toWord_of_fits h2, s32_toWord_of_fits h3⟩

/-- Settles O32: MIX writes `mixCore` of the operands, whose two cases are `normalizeSums_of_le` and
`normalizeSums_of_gt` and whose range is `normalizeSums_bound`. -/
theorem mixFollowsTheMatrix : Obligations.MixFollowsTheMatrix := by
  refine ⟨?_, decode_eq_command_iff.mpr rfl⟩
  intro s vx vy wz m0 m1 m2 m3 big hvx hvy hwz hm0 hm1 hm2 hm3 hbig
  have hx : Fits vx := hvx ▸ s32_fits s.arg0
  have hy : Fits vy := hvy ▸ s32_fits s.arg1
  have hz : Fits wz := hwz ▸ s32_fits s.arg2
  rw [← mixMagnitude_eq] at hbig
  have hmix : mixCore vx vy wz = normalizeSums m0 m1 m2 m3 := by rw [mixCore, hm0, hm1, hm2, hm3]
  have hexec := exec_mix_eq s
  rw [← hvx, ← hvy, ← hwz] at hexec
  obtain ⟨h0, h1, h2, h3⟩ := s32_res_setMixed_mixCore s vx vy wz (mixStatus (mixCore vx vy wz).norm)
  refine ⟨?_, _, hexec, ?_⟩ <;>
    simp only [List.forall_mem_cons, List.not_mem_nil, false_imp_iff, implies_true, and_true]
  · unfold Fits at hx hy hz
    omega
  rw [h0, h1, h2, h3, State.setStatus_status, hmix]
  refine ⟨fun hle => ?_, fun hgt => ?_, normalizeSums_bound m0 m1 m2 m3, State.setMixed_frame ..⟩
  · rw [normalizeSums_of_le (hbig ▸ hle)]
    exact ⟨rfl, rfl, rfl, rfl, rfl⟩
  · rw [hbig, normalizeSums_of_gt (hbig ▸ hgt)]
    exact ⟨rfl, rfl, rfl, rfl, rfl⟩

/-! ## MIXC (R171 to R174) -/

theorem clampHolds_iff {p : Params} {vx vy wz : Int} : clampHolds p vx vy wz = true ↔
    |vx| < (p.clampVxLt.val : Int) ∧ |vy| > (p.clampVyGt.val : Int) ∧ |wz| > (p.clampWGt.val : Int) := by
  simp only [clampHolds, absInt_eq_abs, Bool.and_eq_true, decide_eq_true_eq, and_assoc]

theorem clampedW_of_clampHolds {p : Params} {vx vy wz : Int} (h : clampHolds p vx vy wz = true) :
    clampedW p vx vy wz = 0 := if_pos h

theorem clampedW_of_not_clampHolds {p : Params} {vx vy wz : Int} (h : ¬ clampHolds p vx vy wz = true) :
    clampedW p vx vy wz = wz := if_neg h

theorem exec_mixc_eq (s : State) : exec .mixc s =
    .next ((s.setMixed (mixCore (s32 s.arg0) (s32 s.arg1)
        (clampedW s.params (s32 s.arg0) (s32 s.arg1) (s32 s.arg2)))).setStatus
      (mixcStatus (mixCore (s32 s.arg0) (s32 s.arg1)
          (clampedW s.params (s32 s.arg0) (s32 s.arg1) (s32 s.arg2))).norm
        (clampHolds s.params (s32 s.arg0) (s32 s.arg1) (s32 s.arg2)))) :=
  execMixc_eq s

/-- The fields of STATUS after MIXC: NORM and CLAMP as given, all other bits 0 (R174). -/
theorem State.setStatus_mixcStatus_fields (s : State) (norm clamp : Bool) :
    (s.setStatus (mixcStatus norm clamp)).clamp = clamp ∧ (s.setStatus (mixcStatus norm clamp)).norm = norm
      ∧ (s.setStatus (mixcStatus norm clamp)).sat = false ∧ (s.setStatus (mixcStatus norm clamp)).dtz = false
      ∧ (s.setStatus (mixcStatus norm clamp)).ill = false ∧ (mixcStatus norm clamp).extractLsb 31 5 = 0 := by
  obtain ⟨hsat, hdtz, hnorm, hclamp, hill, hrest⟩ := StatusFields.word_fields { norm := norm, clamp := clamp }
  rw [StatusFields.word_norm_clamp] at hsat hdtz hnorm hclamp hill hrest
  exact ⟨hclamp, hnorm, hsat, hdtz, hill, hrest⟩

/-- Settles O34: MIXC mixes `clampedW`, which is the w of the statement, and writes `mixcStatus`. -/
theorem mixcClampsThenMixes : Obligations.MixcClampsThenMixes := by
  refine ⟨?_, decode_eq_command_iff.mpr rfl⟩
  intro s vx vy wz wz2 clamp hvx hvy hwz hclamp hzero hkeep
  rw [← clampHolds_iff] at hclamp
  have hw : clampedW s.params vx vy wz = wz2 := by
    by_cases hc : clamp
    · rw [hzero hc, clampedW_of_clampHolds (hclamp.mp hc)]
    · rw [hkeep hc, clampedW_of_not_clampHolds (mt hclamp.mpr hc)]
  have hexec := exec_mixc_eq s
  rw [← hvx, ← hvy, ← hwz, hw] at hexec
  obtain ⟨h0, h1, h2, h3⟩ := s32_res_setMixed_mixCore s vx vy wz2
    (mixcStatus (mixCore vx vy wz2).norm (clampHolds s.params vx vy wz))
  obtain ⟨tclamp, tnorm, tsat, tdtz, till, trest⟩ := (s.setMixed (mixCore vx vy wz2)).setStatus_mixcStatus_fields
    (mixCore vx vy wz2).norm (clampHolds s.params vx vy wz)
  refine ⟨_, hexec, h0, h1, h2, h3, ?_, by rw [tnorm], tsat, tdtz, till, trest, fun hc hn => ?_,
    State.setMixed_frame ..⟩
  · rw [tclamp, hclamp]
  · rw [tclamp, ← hclamp] at hc
    rw [tnorm, hzero hc] at hn
    exact lt_abs_add_abs_of_mixCore_norm hn

end Sys2Proof.Machine

/-! # Control (43_control.md): NOP and illegal words

Both write STATUS and nothing else. The illegal words of the rules are given with the reason `decode` finds for each. -/

namespace Sys2Proof.Machine

/-! ## NOP (R181) -/

theorem State.setStatus_frame (s : State) (v : Word) : s.unchangedExcept (s.setStatus v) [.status] := by
  refine State.unchangedExcept_of_read (fun r hr => ?_) rfl rfl rfl
  have hstatus : r ≠ .status := fun h => hr (by simp [h])
  rw [State.read_setStatus, if_neg hstatus]

theorem exec_nop_eq (s : State) : exec .nop s = .next (s.setStatus 0) := execNop_eq s

/-- Settles O37: NOP only writes 0 to STATUS; FUNC 0 with another WHEEL is illegal because that field must be 00. -/
theorem nopClearsStatusOnly : Obligations.NopClearsStatusOnly := by
  refine ⟨fun s => ⟨_, exec_nop_eq s, s.setStatus_status 0, s.setStatus_frame 0⟩,
    decode_eq_command_iff.mpr rfl, ?_⟩
  simp only [List.forall_mem_cons, List.not_mem_nil, false_imp_iff, implies_true, and_true]
  exact ⟨⟨.wheelNotZero, rfl⟩, ⟨.wheelNotZero, rfl⟩, ⟨.wheelNotZero, rfl⟩⟩

/-! ## Illegal words (R182) -/

/-- The step of a CMD write of an illegal word reports it and does nothing else but consume the write. -/
theorem step_illegal {s : State} {v : Word} {rest : List Input} {why : IllegalWord} (hl : s.params.legal = true)
    (hi : s.inputs = .live (.portWrite Reg.cmd.addr v) :: rest) (hd : decode v = .illegal why) :
    step s = .next (s.setInputs rest).reportIllegal := by
  rw [step_portWrite hl hi, portWrite_cmd, execute_illegal hd]

/-- Settles O6: the step only reports the word; each corner case of R182 is illegal by one line of R95. -/
theorem illegalWordReportsIllAndNothingElse : Obligations.IllegalWordReportsIllAndNothingElse := by
  refine ⟨fun s v rest why hl hi hd => ⟨_, step_illegal hl hi hd, State.setStatus_status _ _,
    State.reportIllegal_frame _⟩, ?_⟩
  simp only [List.forall_mem_cons, List.not_mem_nil, false_imp_iff, implies_true, and_true]
  exact ⟨⟨.reservedBits, rfl⟩, ⟨.undefinedFunc, rfl⟩, ⟨.undefinedFunc, rfl⟩, ⟨.wheelNotZero, rfl⟩,
    ⟨.reservedBits, rfl⟩⟩

end Sys2Proof.Machine

/-! # Exceptions (60_exceptions.md): there are none

Every input is accepted, and so is an idle step; no step changes the parameters, so that holds of every later step. -/

namespace Sys2Proof.Machine

/-- With no input waiting the block stays as it is (notes/assumptions/3.md). -/
theorem step_of_no_input {s : State} (hl : s.params.legal = true) (hi : s.inputs = []) : step s = .next s := by
  simp only [step, hl, hi, if_true]

/-- With legal parameters a step answers a next state with the same parameters. -/
theorem step_next {s : State} (hl : s.params.legal = true) : ∃ t, step s = .next t ∧ t.params = s.params := by
  cases hi : s.inputs with
  | nil => exact ⟨s, step_of_no_input hl hi, rfl⟩
  | cons i rest =>
    obtain ⟨t, ht⟩ := accept_next i (s.setInputs rest)
    exact ⟨t, (step_of_input hl hi).trans ht, (accept_base ht).1⟩

/-- With legal parameters any number of steps answers a next state with the same parameters. -/
theorem steps_next {s : State} (n : Nat) (hl : s.params.legal = true) :
    ∃ u, steps n s = .next u ∧ u.params = s.params := by
  induction n generalizing s with
  | zero => exact ⟨s, steps_zero s, rfl⟩
  | succ n ih =>
    obtain ⟨t, ht, hp⟩ := step_next hl
    obtain ⟨u, hu, hpu⟩ := ih (s := t) (hp ▸ hl)
    exact ⟨u, (steps_succ_of_step ht).trans hu, hpu.trans hp⟩

/-- Settles O43: every step is accepted and keeps the parameters legal, so every later one is accepted too. -/
theorem noStepFaultsOrRefuses : Obligations.NoStepFaultsOrRefuses := by
  intro s hl
  obtain ⟨t, ht, hp⟩ := step_next hl
  refine ⟨⟨t, ht, hp ▸ hl⟩, fun n => ?_⟩
  obtain ⟨u, hu, -⟩ := steps_next n hl
  exact ⟨u, hu⟩

end Sys2Proof.Machine

/-! # One word per command (30_encoding.md section 3) -/

namespace Sys2Proof

/-- Settles O1: a word and its fields determine each other, and the fields that select a command are its own. -/
theorem decodeReadsExactlyTheEncodedWord : Obligations.DecodeReadsExactlyTheEncodedWord :=
  fun _ _ => decode_eq_command_iff

/-- Settles O4: each legal word is the word of its command (`decode_eq_command_iff`), and an illegal one meets the first
reason in the decoder's order that holds of its fields. -/
theorem sampleCommandWordsDecode : Obligations.SampleCommandWordsDecode := by
  refine ⟨?_, ?_, ?_, ?_, ?_, ?_, ?_, rfl, rfl, CommandFields.decoded_of_rsvd_ne (by decide)⟩ <;>
    exact decode_eq_command_iff.mpr rfl

end Sys2Proof

/-! # The parameters and the invariant (00_scope.md R7, 41_pid.md R153, 60_exceptions.md R193)

The reset state has the invariant and every input keeps it, so every step does. -/

namespace Sys2Proof.Machine

/-! ## Legal parameter sets -/

theorem wheelParams_legal_iff {p : WheelParams} : p.legal = true ↔ 1 ≤ s32 p.alpha ∧ s32 p.alpha ≤ 65536 := by
  simp only [WheelParams.legal, s32, Bool.and_eq_true, decide_eq_true_eq]

/-- A parameter set is legal when every wheel's ALPHA_CFG is in range (00_scope.md R7). -/
theorem params_legal_iff {p : Params} :
    p.legal = true ↔ ∀ w, 1 ≤ s32 (p.wheel.get w).alpha ∧ s32 (p.wheel.get w).alpha ≤ 65536 := by
  simp only [Params.legal, Bool.and_eq_true, wheelParams_legal_iff]
  constructor
  · rintro ⟨⟨⟨hfl, hfr⟩, hrr⟩, hrl⟩ w
    cases w <;> assumption
  · exact fun h => ⟨⟨⟨h .fl, h .fr⟩, h .rr⟩, h .rl⟩

/-- Settles O40: some ALPHA_CFG out of range is the negation of `params_legal_iff`. -/
theorem illegalAlphaIsRefused : Obligations.IllegalAlphaIsRefused := by
  refine ⟨fun p ⟨w, hw⟩ => ?_, fun p h => if_pos (params_legal_iff.mpr h)⟩
  have hl : ¬ p.legal = true := fun hl => by
    have hin := params_legal_iff.mp hl w
    omega
  refine ⟨if_neg hl, fun s hs => ?_⟩
  subst hs
  exact if_neg hl

/-! ## What keeps each part of the invariant -/

theorem SameBase.configured {s t : State} {w : Wheel} {p : WheelParams} (h : SameBase s t)
    (hc : (s.wheel w).configured p) : (t.wheel w).configured p := by
  obtain ⟨hkp, hki, hkd, halpha, hmin, hmax⟩ := hc
  exact ⟨(h.kp w).trans hkp, (h.ki w).trans hki, (h.kd w).trans hkd, (h.alpha w).trans halpha,
    (h.outMin w).trans hmin, (h.outMax w).trans hmax⟩

/-- A capture event leaves the configuration registers of every wheel alone. -/
theorem State.capture_configured {s : State} {w' : Wheel} {p : WheelParams} (w : Wheel) (b : Bool)
    (hc : (s.wheel w').configured p) : ((s.capture w b).wheel w').configured p := by
  by_cases hw : w' = w
  · subst hw
    rw [State.capture_wheel_self]
    exact hc
  · rw [State.capture_wheel_of_ne s b hw]
    exact hc

theorem piduStatus_reportable (b : Bool) : statusReportable (piduStatus b) := by
  unfold statusReportable
  revert b
  decide

theorem mixStatus_reportable (b : Bool) : statusReportable (mixStatus b) := by
  unfold statusReportable
  revert b
  decide

theorem mixcStatus_reportable (b c : Bool) : statusReportable (mixcStatus b c) := by
  unfold statusReportable
  revert b c
  decide

theorem statusDtz_reportable : statusReportable statusDtz := .inr (.inr (.inl rfl))

theorem statusIll_reportable : statusReportable statusIll := .inr (.inr (.inr (.inr (.inr (.inr rfl)))))

theorem exec_statusReportable {i : Instr} {s t : State} (h : exec i s = .next t) : statusReportable t.status := by
  cases i with
  | pidu w =>
    rcases exec_pidu_cases h with ⟨-, rfl⟩ | ⟨-, rfl⟩
    · exact piduStatus_reportable _
    · exact statusDtz_reportable
  | mix => cases h; exact mixStatus_reportable _
  | mixc => cases h; exact mixcStatus_reportable _ _
  | _ => cases h; exact .inl rfl

/-! ## The reset state and the inputs -/

theorem inv_resetWith {p : Params} (h : p.legal = true) : Inv (State.resetWith p) where
  legal := h
  configured w := by
    rw [State.wheel_resetWith]
    exact ⟨rfl, rfl, rfl, rfl, rfl, rfl⟩
  status := .inl rfl

/-- No field of the invariant speaks of the interface's lists. -/
theorem Inv.setInputs {s : State} (h : Inv s) (l : List Input) : Inv (s.setInputs l) :=
  ⟨h.legal, h.configured, h.status⟩

/-- Every input keeps the invariant. -/
theorem accept_inv {i : Input} {s t : State} (hv : Inv s) (h : accept i s = .next t) : Inv t := by
  obtain ⟨hl, hc, hs⟩ := hv
  rcases accept_cases h with ⟨a, -, rfl⟩ | ⟨v, c, -, -, hx⟩ | ⟨v, why, -, -, rfl⟩ | ⟨v, -, rfl⟩ | ⟨v, -, rfl⟩ |
    ⟨v, -, rfl⟩ | ⟨a, v, -, -, rfl⟩ | ⟨w, b, -, rfl⟩ | ⟨d, -, rfl⟩ <;> try exact ⟨hl, hc, hs⟩
  · have hb := exec_sameBase hx
    exact ⟨hb.params ▸ hl, fun w => hb.params ▸ hb.configured (hc w), exec_statusReportable hx⟩
  · exact ⟨hl, hc, statusIll_reportable⟩
  · exact ⟨hl, fun w' => State.capture_configured w b (hc w'), hs⟩
  · have hr := inv_resetWith hl
    exact ⟨hr.legal, hr.configured, hr.status⟩

/-- Settles O41: every register of the reset state is 0 or its parameter. -/
theorem resetMeetsTheInvariant : Obligations.ResetMeetsTheInvariant :=
  ⟨fun _ h => inv_resetWith h, inv_resetWith (by decide)⟩

/-- Settles O42: a step is idle or takes one input, and every input keeps the invariant and the parameters. -/
theorem everyStepKeepsTheInvariant : Obligations.EveryStepKeepsTheInvariant := by
  intro s t hv h
  obtain ⟨-, ⟨-, rfl⟩ | ⟨i, rest, -, ha⟩⟩ := step_cases h
  · exact ⟨hv, rfl⟩
  · exact ⟨accept_inv (hv.setInputs rest) ha, (accept_base ha).1⟩

end Sys2Proof.Machine

/-! # Runs (20_memory.md R70, R71): a run is the steps of the machine, and its trace holds its inputs -/

namespace Sys2Proof.Machine

theorem runTrace_map_fst {s : State} (is : List Input) (hl : s.params.legal = true) :
    (runTrace s is).map Prod.fst = is := by
  induction is generalizing s with
  | nil => rfl
  | cons i is ih =>
    obtain ⟨t, -, hs, hp, -⟩ := run_first i hl
    rw [runTrace_cons is hs, List.map_cons, ih (by rw [hp]; exact hl)]

/-- A trace holds inputs of the run only. -/
theorem mem_of_mem_runTrace {s : State} {is : List Input} {x : Input × State} (hx : x ∈ runTrace s is) : x.1 ∈ is := by
  cases hl : s.params.legal with
  | true =>
    rw [← runTrace_map_fst is hl]
    exact List.mem_map_of_mem hx
  | false =>
    rw [(run_of_illegal is hl).2] at hx
    cases hx

/-- The machine runs the inputs `is` in as many steps, and does not look at the ones behind them. -/
theorem steps_length {s : State} (is rest : List Input) (hl : s.params.legal = true) :
    steps is.length (s.setInputs (is ++ rest)) = .next ((runEnd s is).setInputs rest) := by
  induction is generalizing s with
  | nil => exact steps_zero _
  | cons i is ih =>
    obtain ⟨t, ha, hs, hp, -⟩ := run_first i hl
    have hlt : t.params.legal = true := by rw [hp]; exact hl
    have hstep := accept_setInputs (is ++ rest) ha
    rw [List.length_cons, steps_succ_of_input (s := s.setInputs (i :: is ++ rest)) hl rfl hstep, ih hlt,
      runEnd_cons is hs]

/-- Settles O44: each input of a run is one step (`steps_length`) and one entry of its trace. -/
theorem runsAreStepsOfTheMachine : Obligations.RunsAreStepsOfTheMachine :=
  fun _ is rest hl => ⟨steps_length is rest hl, runTrace_map_fst is hl⟩

end Sys2Proof.Machine

/-! # Counting (40_encoder.md R123, R125): what an input does to PEND and ABS of a wheel

Both counters are followed as words, where wrapping is addition: an input other than reset adds its tick to ABS, and to
PEND less what a delta capture returned (`accept_pend_add_returnedSum`). -/

namespace Sys2Proof.Machine

/-! ## Counts as words -/

theorem s32_eq_wrap32_iff {v : Word} {n : Int} : s32 v = wrap32 n ↔ v = toWord n := by
  rw [← s32_toWord]
  exact ⟨s32_injective, fun h => h ▸ rfl⟩

theorem s32_eq_wrap32_s32_add_iff {v u : Word} {n : Int} : s32 v = wrap32 (s32 u + n) ↔ v = u + toWord n := by
  rw [s32_eq_wrap32_iff, toWord_add, toWord_s32]

/-! ## Delta captures among the inputs -/

theorem Input.isDeltaCapture_iff {w : Wheel} {i : Input} :
    i.isDeltaCapture w = true ↔ i.command = some (.dcap w) ∨ i.command = some .dcapa := by
  simp only [Input.isDeltaCapture, Bool.or_eq_true, beq_iff_eq]

theorem Input.isDeltaCapture_eq_false_iff {w : Wheel} {i : Input} :
    i.isDeltaCapture w = false ↔ i.command ≠ some (.dcap w) ∧ i.command ≠ some .dcapa := by
  rw [← Bool.not_eq_true, Input.isDeltaCapture_iff, not_or]

/-- A delta capture of a wheel returns PEND and clears it (40_encoder.md R121, R122). -/
theorem accept_deltaCapture {i : Input} {s t : State} {w : Wheel} (hd : i.isDeltaCapture w = true)
    (h : accept i s = .next t) : (t.wheel w).pend = 0 ∧ (i.command = some (.dcap w) → t.res0 = (s.wheel w).pend)
      ∧ (i.command = some .dcapa → t.resOf w = (s.wheel w).pend) := by
  rcases Input.isDeltaCapture_iff.mp hd with hc | hc <;> rw [accept_of_command hc] at h <;> rw [hc]
  · rcases exec_pend w h with ⟨-, hz, hr⟩ | ⟨he, -⟩ | ⟨hn, -⟩
    · exact ⟨hz, fun _ => hr, by simp⟩
    · cases he
    · exact absurd rfl hn
  · rcases exec_pend w h with ⟨he, -⟩ | ⟨-, hz, hr⟩ | ⟨-, hna, -⟩
    · cases he
    · exact ⟨hz, by simp, fun _ => hr⟩
    · exact absurd rfl hna

/-- An input that is neither reset nor a delta capture of the wheel adds its tick to PEND. -/
theorem accept_pend_of_not_deltaCapture {i : Input} {s t : State} {w : Wheel} (hr : i.isReset = false)
    (hd : i.isDeltaCapture w = false) (h : accept i s = .next t) :
    (t.wheel w).pend = (s.wheel w).pend + toWord (ticks w [i]) := by
  have hkeep (hn : ∀ b, i ≠ .live (.capture w b)) (hp : (t.wheel w).pend = (s.wheel w).pend) :
      (t.wheel w).pend = (s.wheel w).pend + toWord (ticks w [i]) := by
    rw [hp, ticks_cons_of_ne [] hn]
    exact (BitVec.add_zero _).symm
  obtain ⟨hnd, hnda⟩ := Input.isDeltaCapture_eq_false_iff.mp hd
  rcases accept_wheel_cases h with ⟨c, hc, hx⟩ | ⟨w', b, rfl, rfl⟩ | ⟨d, rfl, -⟩ | ⟨-, -, hn, hw⟩
  · refine hkeep (Input.ne_capture_of_command hc w) ?_
    rcases exec_pend w hx with ⟨rfl, -, -⟩ | ⟨rfl, -, -⟩ | ⟨-, -, hp⟩
    · exact absurd hc hnd
    · exact absurd hc hnda
    · exact hp
  · by_cases hw : w' = w
    · subst hw
      rw [State.capture_wheel_self, WheelRegs.count_pend_eq_add, ticks_capture_self]
      simp only [ticks, Int.add_zero]
    · exact hkeep (by simp [hw]) (by rw [State.capture_wheel_of_ne s b (Ne.symm hw)])
  · cases hr
  · exact hkeep (hn w) (by rw [hw])

/-- A reset clears both counters (70_reset_and_hazards.md R211). -/
theorem accept_reset_counters {i : Input} {s t : State} (w : Wheel) (hr : i.isReset = true)
    (h : accept i s = .next t) : (t.wheel w).abs = 0 ∧ (t.wheel w).pend = 0 := by
  cases i with
  | live e => cases hr
  | reset d =>
    cases h
    rw [State.applyReset_wheel]
    exact ⟨rfl, rfl⟩

/-! ## PEND, ABS and the values returned -/

theorem returnedSum_cons (w : Wheel) (x : Input × State) (tr : List (Input × State)) :
    returnedSum w (x :: tr) = returnedSum w [x] + returnedSum w tr := by
  simp only [returnedSum, Int.add_zero]

theorem ticks_cons (w : Wheel) (i : Input) (is : List Input) : ticks w (i :: is) = ticks w [i] + ticks w is := by
  by_cases h : ∃ b, i = .live (.capture w b)
  · obtain ⟨b, rfl⟩ := h
    rw [ticks_capture_self, ticks_capture_self]
    simp only [ticks, Int.add_zero]
  · have hn : ∀ b, i ≠ .live (.capture w b) := fun b hb => h ⟨b, hb⟩
    rw [ticks_cons_of_ne is hn, ticks_cons_of_ne [] hn]
    simp only [ticks, Int.zero_add]

/-- Only delta captures return pending counts. -/
theorem returnedSum_eq_zero {w : Wheel} {tr : List (Input × State)} (h : ∀ x ∈ tr, x.1.isDeltaCapture w = false) :
    returnedSum w tr = 0 := by
  induction tr with
  | nil => rfl
  | cons x tr ih =>
    obtain ⟨hx, htr⟩ := List.forall_mem_cons.mp h
    obtain ⟨hnd, hnda⟩ := Input.isDeltaCapture_eq_false_iff.mp hx
    simp only [returnedSum, if_neg hnd, if_neg hnda, ih htr, Int.add_zero]

/-- What a delta capture returns is the pending count it clears. -/
theorem returnedSum_of_deltaCapture {i : Input} {s t : State} {w : Wheel} (hd : i.isDeltaCapture w = true)
    (h : accept i s = .next t) : returnedSum w [(i, t)] = s32 (s.wheel w).pend := by
  obtain ⟨-, hdcap, hdcapa⟩ := accept_deltaCapture hd h
  rcases Input.isDeltaCapture_iff.mp hd with hc | hc
  · simp only [returnedSum, if_pos hc, hdcap hc, Int.add_zero]
  · simp [returnedSum, hc, hdcapa hc]

theorem ticks_of_command {i : Input} {c : Instr} (w : Wheel) (h : i.command = some c) : ticks w [i] = 0 :=
  ticks_cons_of_ne [] (Input.ne_capture_of_command h w)

/-- No tick is lost and none is counted twice: PEND and what was returned of it move by the input's tick. -/
theorem accept_pend_add_returnedSum {i : Input} {s t : State} (w : Wheel) (hr : i.isReset = false)
    (h : accept i s = .next t) :
    (t.wheel w).pend + toWord (returnedSum w [(i, t)]) = (s.wheel w).pend + toWord (ticks w [i]) := by
  cases hd : i.isDeltaCapture w with
  | false =>
    rw [returnedSum_eq_zero (by simpa using hd), accept_pend_of_not_deltaCapture hr hd h]
    exact BitVec.add_zero _
  | true =>
    have ht : ticks w [i] = 0 := by
      rcases Input.isDeltaCapture_iff.mp hd with hc | hc <;> exact ticks_of_command w hc
    rw [returnedSum_of_deltaCapture hd h, (accept_deltaCapture hd h).1, ht, toWord_s32, BitVec.add_comm]
    rfl

/-- An input other than reset adds its tick to ABS. -/
theorem accept_abs {i : Input} {s t : State} (w : Wheel) (hr : i.isReset = false) (h : accept i s = .next t) :
    (t.wheel w).abs = (s.wheel w).abs + toWord (ticks w [i]) := by
  rcases accept_abs_cases w hr h with ⟨b, rfl, habs⟩ | ⟨hn, habs⟩
  · rw [habs, ticks_capture_self]
    simp only [ticks, Int.add_zero]
  · rw [habs, ticks_cons_of_ne [] hn]
    exact (BitVec.add_zero _).symm

/-- The input that a step takes, when one waits. -/
theorem accept_of_step {s t : State} {i : Input} {rest : List Input} (h : step s = .next t)
    (hi : s.inputs = i :: rest) : accept i (s.setInputs rest) = .next t :=
  (step_of_input (step_cases h).1 hi).symm.trans h

/-- An idle step changes nothing. -/
theorem eq_of_idle_step {s t : State} (h : step s = .next t) (hi : s.inputs = []) : t = s := by
  rw [step_of_no_input (step_cases h).1 hi] at h
  cases h
  rfl

/-- Settles O47: the count is a word, to which an input adds its tick unless it clears it. -/
theorem everyStepKeepsThePendingCount : Obligations.EveryStepKeepsThePendingCount := by
  intro s t w n h hn
  refine ⟨fun hi => by rw [eq_of_idle_step h hi, hn], fun i rest hi => ?_⟩
  have ha := accept_of_step h hi
  refine ⟨fun hr hd => ?_, fun hd => ?_, fun hr => ?_⟩
  · rw [s32_eq_wrap32_iff] at hn ⊢
    rw [accept_pend_of_not_deltaCapture hr hd ha, State.wheel_setInputs, hn, toWord_add]
  · obtain ⟨hz, hdcap, hdcapa⟩ := accept_deltaCapture hd ha
    exact ⟨by rw [hz]; rfl, fun hc => by rw [hdcap hc]; exact hn, fun hc => by rw [hdcapa hc]; exact hn⟩
  · rw [(accept_reset_counters w hr ha).2]
    rfl

/-- Settles O48: an input's tick goes to ABS and to PEND alike, and what a delta capture takes from PEND it returns. -/
theorem everyStepKeepsTheCountingInvariant : Obligations.EveryStepKeepsTheCountingInvariant := by
  refine ⟨fun p w => s32_eq_wrap32_s32_add_iff.mpr (by rw [State.wheel_resetWith]; rfl), fun s t w c h hc => ?_⟩
  refine ⟨fun hi => by rw [eq_of_idle_step h hi, hc], fun i rest hi => ⟨fun hr => ?_, fun hr => ?_⟩⟩
  · have ha := accept_of_step h hi
    rw [s32_eq_wrap32_s32_add_iff] at hc ⊢
    calc (t.wheel w).abs
      _ = (s.wheel w).abs + toWord (ticks w [i]) := by rw [accept_abs w hr ha, State.wheel_setInputs]
      _ = (s.wheel w).pend + toWord (ticks w [i]) + toWord c := by rw [hc]; ac_rfl
      _ = (t.wheel w).pend + toWord (returnedSum w [(i, t)]) + toWord c := by
        rw [accept_pend_add_returnedSum w hr ha, State.wheel_setInputs]
      _ = (t.wheel w).pend + toWord (c + returnedSum w [(i, t)]) := by rw [toWord_add]; ac_rfl
  · obtain ⟨habs, hpend⟩ := accept_reset_counters w hr (accept_of_step h hi)
    rw [s32_eq_wrap32_s32_add_iff, habs, hpend]
    rfl

/-! ## Counting along a run (R123, R125) -/

/-- Over a run without reset PEND and all that was returned of it move by the run's ticks of the wheel. -/
theorem runEnd_pend_add_returnedSum {s : State} (w : Wheel) {is : List Input} (hl : s.params.legal = true)
    (hr : ∀ i ∈ is, i.isReset = false) :
    ((runEnd s is).wheel w).pend + toWord (returnedSum w (runTrace s is)) = (s.wheel w).pend + toWord (ticks w is) := by
  induction is generalizing s with
  | nil => rfl
  | cons i is ih =>
    obtain ⟨hri, hris⟩ := List.forall_mem_cons.mp hr
    obtain ⟨t, ha, hs, hp, -⟩ := run_first i hl
    have hi := accept_pend_add_returnedSum w hri ha
    have his := ih (s := t) (by rw [hp]; exact hl) hris
    rw [runEnd_cons is hs, runTrace_cons is hs, returnedSum_cons, ticks_cons, toWord_add, toWord_add]
    calc ((runEnd t is).wheel w).pend + (toWord (returnedSum w [(i, t)]) + toWord (returnedSum w (runTrace t is)))
      _ = (t.wheel w).pend + toWord (ticks w is) + toWord (returnedSum w [(i, t)]) := by rw [← his]; ac_rfl
      _ = (t.wheel w).pend + toWord (returnedSum w [(i, t)]) + toWord (ticks w is) := by ac_rfl
      _ = (s.wheel w).pend + (toWord (ticks w [i]) + toWord (ticks w is)) := by
        rw [hi, State.wheel_setInputs, BitVec.add_assoc]

/-- Settles O22: from reset ABS holds the run's ticks (`runEnd_abs`), and so do PEND and what was returned of it. -/
theorem absIsPendingPlusReturned : Obligations.AbsIsPendingPlusReturned := by
  intro p w is hl hr
  have hl' : (State.resetWith p).params.legal = true := hl
  rw [s32_eq_wrap32_s32_add_iff, runEnd_abs w hl' hr, runEnd_pend_add_returnedSum w hl' hr, State.wheel_resetWith]
  rfl

/-- Without a delta capture of the wheel and reset PEND counts the run's ticks. -/
theorem runEnd_pend_of_not_deltaCapture {s : State} (w : Wheel) {is : List Input} (hl : s.params.legal = true)
    (h : ∀ i ∈ is, i.isDeltaCapture w = false ∧ i.isReset = false) :
    ((runEnd s is).wheel w).pend = (s.wheel w).pend + toWord (ticks w is) := by
  rw [← runEnd_pend_add_returnedSum w hl fun i hi => (h i hi).2,
    returnedSum_eq_zero fun x hx => (h x.1 (mem_of_mem_runTrace hx)).1]
  exact (BitVec.add_zero _).symm

/-- The last input of a run is accepted in the state that the inputs before it leave. -/
theorem runEnd_concat {s : State} (l : List Input) (i : Input) (hl : s.params.legal = true) :
    ∃ t, accept i ((runEnd s l).setInputs []) = .next t ∧ step ((runEnd s l).setInputs [i]) = .next t
      ∧ runEnd s (l ++ [i]) = t := by
  obtain ⟨t, ha, hs, -, -⟩ := run_first i (s := runEnd s l) (by rw [runEnd_params l hl]; exact hl)
  exact ⟨t, ha, hs, by rw [runEnd_append l [i] hl, runEnd_cons [] hs]; rfl⟩

/-- A run from reset that is empty or ends in a delta capture of the wheel or in reset leaves nothing pending. -/
theorem runEnd_pend_eq_zero {p : Params} {w : Wheel} {is : List Input} (hl : p.legal = true)
    (h : is = [] ∨ ∃ l i, is = l ++ [i] ∧ (i.isDeltaCapture w = true ∨ i.isReset = true)) :
    ((runEnd (State.resetWith p) is).wheel w).pend = 0 := by
  rcases h with rfl | ⟨l, i, rfl, hi⟩
  · exact congrArg WheelRegs.pend (State.wheel_resetWith p w)
  · obtain ⟨t, ha, -, ht⟩ := runEnd_concat (s := State.resetWith p) l i hl
    rw [ht]
    rcases hi with hd | hr
    · exact (accept_deltaCapture hd ha).1
    · exact (accept_reset_counters w hr ha).2

/-- Settles O21: nothing is pending at the start of `between`, so the ticks of `between` are what is pending at its
end, which the delta capture returns. -/
theorem everyCaptureIsCountedExactlyOnce : Obligations.EveryCaptureIsCountedExactlyOnce := by
  intro p w before between c hp hbefore hbetween hc
  have hl : (State.resetWith p).params.legal = true := hp
  have hpend : s32 ((runEnd (State.resetWith p) (before ++ between)).wheel w).pend = wrap32 (ticks w between) := by
    rw [s32_eq_wrap32_iff, runEnd_append _ _ hl,
      runEnd_pend_of_not_deltaCapture w (by rw [runEnd_params before hl]; exact hl) hbetween,
      runEnd_pend_eq_zero hp hbefore]
    exact BitVec.zero_add _
  obtain ⟨t, ha, hs, ht⟩ := runEnd_concat (before ++ between) c hl
  obtain ⟨-, hdcap, hdcapa⟩ := accept_deltaCapture hc ha
  rw [State.wheel_setInputs] at hdcap hdcapa
  exact ⟨t, hs, ht, fun h => by rw [hdcap h, hpend], fun h => by rw [hdcapa h, hpend]⟩

end Sys2Proof.Machine

/-! # PID properties (41_pid.md R131, R150, R151): one wheel only, what persists over a run, decay and rest -/

namespace Sys2Proof.Machine

/-! ## What persists over a run (R150, R151) -/

/-- A relation between a wheel's registers that every entry of a run's trace respects holds from its start to its
end. -/
theorem runEnd_wheel_rel {R : WheelRegs → WheelRegs → Prop} (hrefl : ∀ k, R k k)
    (htrans : ∀ k l m, R k l → R l m → R k m) (w : Wheel) {s : State} (is : List Input)
    (h : ∀ x ∈ runTrace s is, ∀ u, accept x.1 u = .next x.2 → R (u.wheel w) (x.2.wheel w)) :
    R (s.wheel w) ((runEnd s is).wheel w) := by
  cases hl : s.params.legal with
  | false =>
    rw [(run_of_illegal is hl).1]
    exact hrefl _
  | true =>
    induction is generalizing s with
    | nil => exact hrefl _
    | cons i is ih =>
      obtain ⟨t, ha, hs, hp, -⟩ := run_first i hl
      rw [runTrace_cons is hs, List.forall_mem_cons] at h
      obtain ⟨hi, his⟩ := h
      rw [runEnd_cons is hs]
      exact htrans _ _ _ (hi (s.setInputs []) ha) (ih his (by rw [hp]; exact hl))

theorem WheelRegs.samePid_refl (k : WheelRegs) : k.samePid k := ⟨rfl, rfl, rfl, rfl⟩

theorem WheelRegs.samePid_trans {k l m : WheelRegs} (hkl : k.samePid l) (hlm : l.samePid m) : k.samePid m := by
  obtain ⟨hinteg, hprev, hfilt, hlast⟩ := hkl
  obtain ⟨hinteg', hprev', hfilt', hlast'⟩ := hlm
  exact ⟨hinteg'.trans hinteg, hprev'.trans hprev, hfilt'.trans hfilt, hlast'.trans hlast⟩

theorem State.capture_samePid (s : State) (w' : Wheel) (b : Bool) (w : Wheel) :
    (s.wheel w).samePid ((s.capture w' b).wheel w) := by
  by_cases hw : w = w'
  · subst hw
    rw [State.capture_wheel_self]
    exact ⟨rfl, rfl, rfl, rfl⟩
  · rw [State.capture_wheel_of_ne s b hw]
    exact WheelRegs.samePid_refl _

/-- An input other than reset and PIDU and PIDI of a wheel leaves the wheel's PID state alone (41_pid.md R151). -/
theorem accept_samePid {i : Input} {s t : State} {w : Wheel} (hr : i.isReset = false)
    (hu : i.command ≠ some (.pidu w)) (hi : i.command ≠ some (.pidi w)) (h : accept i s = .next t) :
    (s.wheel w).samePid (t.wheel w) := by
  rcases accept_wheel_cases h with ⟨c, hc, hx⟩ | ⟨w', b, -, rfl⟩ | ⟨d, rfl, -⟩ | ⟨-, -, -, hw⟩
  · rw [hc] at hu hi
    exact exec_samePid hx (fun h => hu (h ▸ rfl)) (fun h => hi (h ▸ rfl))
  · exact s.capture_samePid w' b w
  · cases hr
  · rw [hw]
    exact WheelRegs.samePid_refl _

/-- Settles O27: every input of the run keeps the PID state (`accept_samePid`). -/
theorem pidStatePersistsWithoutPidCommands : Obligations.PidStatePersistsWithoutPidCommands := by
  intro s w is h
  refine runEnd_wheel_rel WheelRegs.samePid_refl (fun _ _ _ => WheelRegs.samePid_trans) w is fun x hx u hu => ?_
  obtain ⟨hr, hnu, hni⟩ := h x.1 (mem_of_mem_runTrace hx)
  exact accept_samePid hr hnu hni hu

/-- A PIDU that reports SAT commits no integral, and a held one writes none (41_pid.md R143, R144). -/
theorem exec_pidu_integ_of_statusSat {s t : State} {w : Wheel} (h : exec (.pidu w) s = .next t)
    (hs : t.status = statusSat) : (t.wheel w).integ = (s.wheel w).integ := by
  rcases exec_pidu_cases h with ⟨-, rfl⟩ | ⟨-, rfl⟩
  · by_cases hsat : (pidUpdate (s.wheel w) (s32 s.arg0) (s32 s.arg1) (s32 s.arg2)).sat = true
    · exact pidCommit_integ_of_sat hsat w
    · rw [pidCommit_status_of_not_sat hsat] at hs
      exact absurd hs (by decide)
  · rw [State.pidHold_wheel]

/-- Settles O30: an input of the run is a PIDU of the wheel that reports SAT, or leaves the PID state alone. -/
theorem integralFrozenWhileSaturated : Obligations.IntegralFrozenWhileSaturated := by
  intro s w is h hsat
  refine runEnd_wheel_rel (R := fun k l => l.integ = k.integ) (fun _ => rfl) (fun _ _ _ hkl hlm => hlm.trans hkl) w is
    fun x hx u hu => ?_
  obtain ⟨hr, hni⟩ := h x.1 (mem_of_mem_runTrace hx)
  by_cases hpidu : x.1.command = some (.pidu w)
  · rw [accept_of_command hpidu] at hu
    exact exec_pidu_integ_of_statusSat hu (hsat x hx hpidu)
  · obtain ⟨hinteg, -⟩ := accept_samePid hr hpidu hni hu
    exact hinteg

/-! ## One wheel only (R131) -/

/-- What PIDU leaves in its wheel's registers (41_pid.md R142, R143). -/
theorem exec_pidu_wheel {w : Wheel} {s t : State} (h : exec (.pidu w) s = .next t) :
    t.wheel w = if s32 s.arg2 ≤ 0 then s.wheel w
      else (s.wheel w).afterUpdate (pidUpdate (s.wheel w) (s32 s.arg0) (s32 s.arg1) (s32 s.arg2)) := by
  rcases exec_pidu_cases h with ⟨hp, rfl⟩ | ⟨hp, rfl⟩
  · rw [if_neg (by omega), State.pidCommit_wheel_self]
  · rw [if_pos hp, State.pidHold_wheel]

theorem exec_pid_wheel_of_ne {i : Instr} {s t : State} {w w' : Wheel} (hi : i = .pidu w ∨ i = .pidi w)
    (h : exec i s = .next t) (hw : w' ≠ w) : t.wheel w' = s.wheel w' := by
  rcases hi with rfl | rfl
  · rcases exec_pidu_cases h with ⟨-, rfl⟩ | ⟨-, rfl⟩
    · exact State.pidCommit_wheel_of_ne s w _ hw
    · rfl
  · rw [exec_pidi_eq] at h
    cases h
    exact State.wheel_setWheel_of_ne s _ hw

/-- Settles O28: what PIDU and PIDI write is a function of ARG0 to ARG2 and the wheel's registers. -/
theorem pidCommandsSeeOneWheelOnly : Obligations.PidCommandsSeeOneWheelOnly := by
  intro s s' t t' w i hi h
  refine ⟨fun w' hw => exec_pid_wheel_of_ne hi h hw, fun h' h0 h1 h2 hk => ?_⟩
  rcases hi with rfl | rfl
  · rw [exec_pidu_wheel h, exec_pidu_wheel h', exec_status h, exec_status h', exec_pidu_res0 h, exec_pidu_res0 h']
    simp only [decodedStatus, h0, h1, h2, hk, implies_true, and_self]
  · rw [exec_pidi_wheel h, exec_pidi_wheel h', exec_pidi_status h, exec_pidi_status h', hk]
    exact ⟨rfl, rfl, nofun⟩

/-! ## Decay of the filtered derivative (R150, third property) -/

theorem abs_sat32_le (x : Int) : |sat32 x| ≤ |x| := by
  rw [Int.abs_eq_natAbs, Int.abs_eq_natAbs]
  unfold sat32
  omega

/-- A factor below 1.0 decreases the magnitude of what it multiplies. -/
theorem abs_fmul_lt {a b : Int} (ha : |a| < 65536) (hb : b ≠ 0) : |fmul a b| < |b| := by
  refine lt_of_le_of_lt (abs_sat32_le _) ?_
  have hmul : (a * b).natAbs < 65536 * b.natAbs := by
    rw [Int.abs_eq_natAbs] at ha
    rw [Int.natAbs_mul]
    exact Nat.mul_lt_mul_of_pos_right (by omega) (by omega)
  rw [tdiv_eq, Int.abs_eq_natAbs, Int.abs_eq_natAbs, Int.natAbs_tdiv]
  exact_mod_cast Nat.div_lt_of_lt_mul hmul

/-- With an unchanged error the update only scales the filtered derivative. -/
theorem pidUpdate_fD_of_prevErr {k : WheelRegs} {t m dt : Int} (h : s32 k.prevErr = sat32 (t - m)) :
    (pidUpdate k t m dt).fD = fmul (65536 - s32 k.alpha) (s32 k.filtD) := by
  rw [pidUpdate_fD, h, Int.sub_self, fdiv_zero_left, fmul_zero_right, Int.zero_add, sat32_of_fits (fmul_fits _ _)]

/-- Settles O31: the update multiplies FILT_D by 1.0 - ALPHA, which is below 1.0. -/
theorem filteredDerivativeDecays : Obligations.FilteredDerivativeDecays := by
  intro s w hdt hlo hhi hprev hne
  refine ⟨_, exec_pidu_of_pos hdt, ?_⟩
  rw [State.pidCommit_wheel_self, WheelRegs.afterUpdate_filtD, s32_toWord_of_fits (pidUpdate_fD_fits _ _ _ _),
    pidUpdate_fD_of_prevErr hprev, absInt_eq_abs, absInt_eq_abs]
  refine abs_fmul_lt ?_ fun h => hne (s32_injective (h.trans s32_zero.symm))
  rw [abs_lt]
  omega

/-! ## Rest at zero error (R150, second property) -/

/-- From a cleared PID state an update with t = m computes nothing but 0. -/
theorem pidUpdate_of_rest {k : WheelRegs} {m dt : Int} (hinteg : k.integ = 0) (hprev : k.prevErr = 0)
    (hfilt : k.filtD = 0) (hmin : s32 k.outMin ≤ 0) (hmax : 0 ≤ s32 k.outMax) :
    pidUpdate k m m dt = ⟨0, 0, 0, 0, false, 0⟩ := by
  have hsat : sat32 0 = 0 := rfl
  simp [pidUpdate, pidError, pidCandidate, pidFiltered, pidOutput, pidSaturates, hinteg, hprev, hfilt, hsat,
    clampmm_of_mem hmin hmax, hmin, hmax]

theorem State.pidHold_sat (s : State) (w : Wheel) : (s.pidHold w).sat = false := by
  rw [State.sat, State.pidHold_status]
  rfl

/-- Settles O29: a held PIDU returns the cleared LAST_OUT, and any other one commits the update of
`pidUpdate_of_rest`. -/
theorem zeroErrorGivesZeroOutput : Obligations.ZeroErrorGivesZeroOutput := by
  intro s w harg hinteg hprev hfilt hlast hmin hmax
  rcases Int.lt_or_le 0 (s32 s.arg2) with hp | hp
  · refine ⟨_, exec_pidu_of_pos hp, ?_⟩
    rw [harg, pidUpdate_of_rest hinteg hprev hfilt hmin hmax, State.pidCommit_sat, State.pidCommit_wheel_self]
    exact ⟨rfl, rfl, rfl, rfl, rfl, rfl⟩
  · exact ⟨_, exec_pidu_of_hold hp, hlast, s.pidHold_sat w, hinteg, hprev, hfilt, hlast⟩

end Sys2Proof.Machine

/-! # The mixer with the clamp (42_mixer.md R172, R175): MIXC against MIX, and the default thresholds -/

namespace Sys2Proof.Machine

/-- Settles O35: MIXC mixes `clampedW`, which is wz without the clamp and 0, the value of a cleared ARG2, with it. -/
theorem mixcIsMixOnTheClampedCommand : Obligations.MixcIsMixOnTheClampedCommand := by
  intro s
  rw [exec_mixc_eq]
  refine ⟨fun hc => ?_, fun hc => ⟨_, exec_mix_eq _, ?_⟩⟩
  · rw [hc, clampedW_of_not_clampHolds (by simp [hc]), exec_mix_eq]
    simp [mixcStatus, mixStatus]
  · rw [hc, clampedW_of_clampHolds hc]
    rfl

theorem clampHolds_default {vx vy wz : Int} : clampHolds Params.default vx vy wz = true ↔
    |vx| < 6554 ∧ |vy| > 19660 ∧ |wz| > 19660 :=
  clampHolds_iff

/-- Settles O36: an integer q has |q| < 6554 exactly when |q| / 65536 < 0.1, and |q| > 19660 exactly when
|q| / 65536 > 0.3. -/
theorem defaultThresholdsAreTheRealOnes : Obligations.DefaultThresholdsAreTheRealOnes := by
  intro s hp
  obtain ⟨hclamp, -⟩ := State.setStatus_mixcStatus_fields _ _ _
  refine ⟨_, exec_mixc_eq s, ?_⟩
  rw [hclamp, hp, clampHolds_default]
  omega

end Sys2Proof.Machine

/-! # The arithmetic primitives (00_scope.md R10) -/

namespace Sys2Proof.Machine

/-- No 32-bit value is nearer to an integer than its saturation. -/
theorem abs_sub_sat32_le {x y : Int} (hy : Fits y) : |x - sat32 x| ≤ |x - y| := by
  unfold Fits at hy
  rw [Int.abs_eq_natAbs, Int.abs_eq_natAbs]
  unfold sat32
  omega

/-- What truncation drops is the remainder. -/
theorem abs_sub_tdiv_mul_lt (a : Int) {b : Int} (hb : b ≠ 0) : |a - tdiv a b * b| < |b| := by
  have hrem : a - tdiv a b * b = a.tmod b := by
    have hdiv := Int.mul_tdiv_add_tmod a b
    rw [tdiv_eq, Int.mul_comm]
    omega
  rw [hrem, Int.abs_eq_natAbs, Int.abs_eq_natAbs, Int.natAbs_tmod]
  exact_mod_cast Nat.mod_lt _ (Int.natAbs_pos.mpr hb)

theorem abs_tdiv_mul_le (a b : Int) : |tdiv a b * b| ≤ |a| := by
  rw [tdiv_eq, Int.abs_eq_natAbs, Int.abs_eq_natAbs, Int.natAbs_mul, Int.natAbs_tdiv]
  exact_mod_cast Nat.div_mul_le_self _ _

/-- The quotient has the sign of the product, or is 0. -/
theorem tdiv_mul_nonneg (a b : Int) : 0 ≤ tdiv a b * (a * b) := by
  have hsign : (tdiv a b * (a * b)).sign = 0 ∨ (tdiv a b * (a * b)).sign = a.sign * b.sign * (a.sign * b.sign) := by
    rw [Int.sign_mul, Int.sign_mul, tdiv_eq, Int.sign_tdiv]
    split
    · exact .inl (Int.zero_mul _)
    · exact .inr rfl
  rw [← Int.sign_nonneg_iff]
  rcases hsign with h | h
  · omega
  · rw [h]; exact mul_self_nonneg _

/-- Settles O46: `sat32` leaves the nearest 32-bit value and `tdiv` a remainder smaller than the divisor; `fmul` and
`fdiv` divide by `tdiv`, which is Lean's truncated division (`tdiv_eq`). -/
theorem primitivesTruncateAndSaturate : Obligations.PrimitivesTruncateAndSaturate := by
  refine ⟨fun x => ?_, fun x y hlo hhi => ?_, fun a b hb => ?_, fun a b => ?_, fun a b _ => ?_⟩
  · obtain ⟨hlo, hhi⟩ := wrap32_fits x
    refine ⟨hlo, hhi, ?_⟩
    unfold wrap32
    omega
  · obtain ⟨hslo, hshi⟩ := sat32_fits x
    exact ⟨hslo, hshi, abs_sub_sat32_le ⟨hlo, hhi⟩⟩
  · exact ⟨abs_sub_tdiv_mul_lt a hb, abs_tdiv_mul_le a b, tdiv_mul_nonneg a b⟩
  · rw [fmul, tdiv_eq]
  · rw [fdiv, tdiv_eq]

end Sys2Proof.Machine

/-! # Steps of given inputs (20_memory.md R70 to R72, 30_encoding.md R91, R97, R98)

A step whose input is known, then the lists of inputs that stand for one thing: a command word, an edge, a tie, a
pseudo-instruction. -/

namespace Sys2Proof.Machine

/-! ## One command, one edge, one tie -/

/-- The first input of a run, given what it answers. -/
theorem runEnd_cons_of_accept {s t : State} {i : Input} {is : List Input} (hl : s.params.legal = true)
    (ha : accept i (s.setInputs []) = .next t) : runEnd s (i :: is) = runEnd t is :=
  runEnd_cons is ((step_of_input (s := s.setInputs [i]) hl rfl).trans ha)

/-- The step of a CMD write of a command's word is the command. -/
theorem step_command {s : State} {v : Word} {i : Instr} {rest : List Input} (hl : s.params.legal = true)
    (hi : s.inputs = .live (.portWrite Reg.cmd.addr v) :: rest) (hd : decode v = .command i) :
    step s = exec i (s.setInputs rest) := by
  rw [step_portWrite hl hi, portWrite_cmd, execute_command hd]

/-- The word of an opcode-table row decodes to the row's command (notes/assumptions/14.md). -/
theorem decode_tableWord {nbits w : Nat} {i : Instr} (h : decodeTableWord nbits w = some i) :
    decode (tableWord nbits w) = .command i := by
  simp only [decodeTableWord] at h
  unfold tableWord
  split at h
  · split at h
    · next hd => cases h; exact hd
    · cases h
  · cases h

/-- Settles O5: both clauses are the step of a CMD write (`step_command`); a table word put in front of the inputs is
taken away again. -/
theorem stepRunsTheDecodedCommand : Obligations.StepRunsTheDecodedCommand :=
  ⟨fun _ _ _ _ hl hi hd => step_command hl hi hd,
    fun s _ _ hl h => step_command (s := s.withFetchWord 32 _) hl rfl (decode_tableWord h)⟩

/-- Settles O15: only the primary rising edge is an input, and its step is the capture event. -/
theorem onlyPrimaryRisingEdgesCount : Obligations.OnlyPrimaryRisingEdgesCount :=
  fun _ _ _ => ⟨rfl, rfl, rfl, rfl, fun hl => runEnd_cons_of_accept hl rfl⟩

/-- The two steps of a tie are the command word and then the capture event (20_memory.md R72). -/
theorem steps_simultaneous {s t : State} {v : Word} {w : Wheel} {b : Bool} {rest : List Input}
    (hl : s.params.legal = true) (hi : s.inputs = simultaneous v w b ++ rest) (h : execute v s = .next t) :
    steps 2 s = .next ((t.setInputs rest).capture w b) := by
  have hw : accept (.live (.portWrite Reg.cmd.addr v)) (s.setInputs (.live (.capture w b) :: rest))
      = .next (t.setInputs (.live (.capture w b) :: rest)) :=
    (portWrite_cmd v _).trans (execute_setInputs _ h)
  have hlt : t.params.legal = true := by rw [(execute_sameBase h).params]; exact hl
  rw [steps_succ_of_input hl hi hw, steps_one,
    step_of_input (s := t.setInputs (.live (.capture w b) :: rest)) hlt rfl]
  rfl

/-- Settles O18: the DCAP leaves 0 pending, to which the event after it adds 1. -/
theorem simultaneousCaptureFollowsTheCommand : Obligations.SimultaneousCaptureFollowsTheCommand := by
  refine ⟨fun s t v w b rest hl hi h => steps_simultaneous hl hi h, fun s w rest hl hi => ?_⟩
  obtain ⟨t, ht⟩ := exec_next (.dcap w) s
  obtain ⟨hres, hpend, -⟩ := exec_dcap_writes ht
  have hx : execute (encode (.dcap w)) s = .next t := (execute_command (decode_eq_command_iff.mpr rfl)).trans ht
  refine ⟨_, steps_simultaneous hl hi hx, hres, ?_⟩
  rw [State.capture_wheel_self, State.wheel_setInputs, WheelRegs.count_pend_eq_add, hpend]
  rfl

/-! ## Reset (70_reset_and_hazards.md R213) -/

/-- The replies during reset are one 0 for each input that a test `q` of port reads picks. -/
theorem droppedReplies_eq_replicate {q : Stimulus → Bool} (hread : ∀ a, q (.portRead a) = true)
    (hwrite : ∀ a v, q (.portWrite a v) = false) (hcapture : ∀ w b, q (.capture w b) = false) (d : List Stimulus) :
    droppedReplies d = List.replicate (d.countP q) 0 := by
  induction d with
  | nil => rfl
  | cons e d ih =>
    cases e with
    | portRead a => rw [List.countP_cons_of_pos (hread a), List.replicate_succ, ← ih]; rfl
    | portWrite a v => rw [List.countP_cons_of_neg (by simp [hwrite]), ← ih]; rfl
    | capture w b => rw [List.countP_cons_of_neg (by simp [hcapture]), ← ih]; rfl

/-- Settles O39: the reset step uses what it carries for the replies only. -/
theorem resetDropsWhatArrivesDuringIt : Obligations.ResetDropsWhatArrivesDuringIt := by
  intro s d
  refine ⟨s.applyReset d, s.applyReset [], rfl, rfl, rfl, ?_⟩
  rw [State.applyReset_replies]
  exact congrArg (s.replies ++ ·)
    (droppedReplies_eq_replicate (fun _ => rfl) (fun _ _ => rfl) (fun _ _ => rfl) d)

/-! ## The assembler's inputs (30_encoding.md R97, R98) -/

section Asm

variable {s : State} (l : List Input)

/-- `s` with the operands `x`, `y`, `z`. -/
def State.setArgs (s : State) (x y z : Word) : State := ((s.setArg0 x).setArg1 y).setArg2 z

/-- A write of a register. -/
theorem runEnd_wr {r : Reg} {v : Word} {t : State} (hl : s.params.legal = true)
    (h : portWrite r.addr v (s.setInputs []) = .next t) : runEnd s (Asm.wr r v ++ l) = runEnd t l :=
  runEnd_cons_of_accept hl h

/-- Writes of the three operand registers. -/
theorem runEnd_wr_args (x y z : Word) (hl : s.params.legal = true) :
    runEnd s (Asm.wr .arg0 x ++ Asm.wr .arg1 y ++ Asm.wr .arg2 z ++ l)
      = runEnd ((s.setInputs []).setArgs x y z) l := by
  rw [List.append_assoc, List.append_assoc, runEnd_wr _ hl (portWrite_arg0 x _),
    runEnd_wr _ (by exact hl) (portWrite_arg1 y _), runEnd_wr _ (by exact hl) (portWrite_arg2 z _)]
  rfl

/-- A command. -/
theorem runEnd_instr {t : State} {i : Instr} (hl : s.params.legal = true) (h : exec i (s.setInputs []) = .next t) :
    runEnd s (Asm.instr i ++ l) = runEnd t l :=
  runEnd_cons_of_accept hl
    ((accept_of_command (Input.command_of_decode (decode_eq_command_iff.mpr rfl))).trans h)

theorem State.setInputs_eq_self (h : s.inputs = l) : s.setInputs l = s := by
  subst h
  rfl

/-- A read of a register. -/
theorem runEnd_rd (r : Reg) (hl : s.params.legal = true) (hi : s.inputs = []) :
    runEnd s (Asm.rd r ++ l) = runEnd (s.giveReply (s.read r)) l := by
  refine runEnd_cons_of_accept hl ?_
  rw [State.setInputs_eq_self _ hi, ← portRead_addr]
  rfl

/-- Reads of the four result registers. -/
theorem runEnd_rd_results (hl : s.params.legal = true) (hi : s.inputs = []) :
    runEnd s (Asm.rd .res0 ++ Asm.rd .res1 ++ Asm.rd .res2 ++ Asm.rd .res3)
      = (((s.giveReply s.res0).giveReply s.res1).giveReply s.res2).giveReply s.res3 := by
  rw [List.append_assoc, List.append_assoc, runEnd_rd _ _ hl hi, runEnd_rd _ _ (by exact hl) (by exact hi),
    runEnd_rd _ _ (by exact hl) (by exact hi), ← List.append_nil (Asm.rd .res3),
    runEnd_rd _ _ (by exact hl) (by exact hi)]
  simp only [State.read_giveReply]
  rfl

/-- The steps that take the inputs of a pseudo-instruction. -/
theorem steps_of_inputs {is rest : List Input} (hl : s.params.legal = true) (hi : s.inputs = is ++ rest) :
    steps is.length s = .next ((runEnd s is).setInputs rest) := by
  rw [← steps_length is rest hl, State.setInputs_eq_self _ hi]

/-- `PID` (R98) is PIDU on the operands written, and the read of its result. -/
theorem steps_pid {u : State} {w : Wheel} {t m dt : Word} {rest : List Input} (hl : s.params.legal = true)
    (hi : s.inputs = Asm.pid w t m dt ++ rest) (hu : exec (.pidu w) ((s.setInputs rest).setArgs t m dt) = .next u) :
    steps 5 s = .next (u.giveReply u.res0) := by
  have hb := exec_sameBase hu
  have hlu : u.params.legal = true := by rw [hb.params]; exact hl
  have hu' : exec (.pidu w) ((s.setInputs []).setArgs t m dt) = .next (u.setInputs []) := exec_setInputs [] hu
  have hrun : runEnd s (Asm.pid w t m dt) = (u.setInputs []).giveReply u.res0 := by
    rw [Asm.pid, List.append_assoc, runEnd_wr_args _ t m dt hl, runEnd_instr _ (by exact hl) hu']
    exact runEnd_rd [] .res0 (s := u.setInputs []) hlu rfl
  calc steps 5 s
    _ = .next (((u.setInputs []).giveReply u.res0).setInputs rest) := hrun ▸ steps_of_inputs hl hi
    _ = .next ((u.setInputs rest).giveReply u.res0) := rfl
    _ = .next (u.giveReply u.res0) := by rw [State.setInputs_eq_self rest hb.inputs]

/-- `MIXV` and `MIXVC` (R98) are their command on the operands written. -/
theorem steps_args_instr {i : Instr} {x y z : Word} {rest : List Input} (hl : s.params.legal = true)
    (hi : s.inputs = Asm.wr .arg0 x ++ Asm.wr .arg1 y ++ Asm.wr .arg2 z ++ Asm.instr i ++ rest) :
    steps 4 s = exec i ((s.setInputs rest).setArgs x y z) := by
  obtain ⟨u, hu⟩ := exec_next i ((s.setInputs []).setArgs x y z)
  have hrun : runEnd s (Asm.wr .arg0 x ++ Asm.wr .arg1 y ++ Asm.wr .arg2 z ++ Asm.instr i) = u := by
    rw [runEnd_wr_args _ x y z hl]
    exact runEnd_instr [] hl hu
  have hexec : exec i ((s.setInputs rest).setArgs x y z) = .next (u.setInputs rest) := exec_setInputs rest hu
  rw [hexec, ← hrun]
  exact steps_of_inputs hl hi

/-- `SAMPLE` (R98) is DCAPA and the reads of its four results. -/
theorem steps_sample {rest : List Input} (hl : s.params.legal = true) (hi : s.inputs = Asm.sample ++ rest) :
    ∃ t, steps 5 s = .next t ∧ t.inputs = rest ∧ (∀ w, (t.wheel w).pend = 0)
      ∧ t.replies = s.replies ++ [(s.wheel .fl).pend, (s.wheel .fr).pend, (s.wheel .rr).pend, (s.wheel .rl).pend] := by
  obtain ⟨hdcapa, -⟩ := dcapaSamplesAllWheelsAtOnce
  obtain ⟨u, hu, h0, h1, h2, h3, hpend, -⟩ := hdcapa (s.setInputs [])
  have hb := exec_sameBase hu
  have hlu : u.params.legal = true := by rw [hb.params]; exact hl
  have hsample : Asm.sample = Asm.instr .dcapa ++ (Asm.rd .res0 ++ Asm.rd .res1 ++ Asm.rd .res2 ++ Asm.rd .res3) := rfl
  have hrun : runEnd s Asm.sample = (((u.giveReply u.res0).giveReply u.res1).giveReply u.res2).giveReply u.res3 := by
    rw [hsample, runEnd_instr _ hl hu, runEnd_rd_results hlu hb.inputs]
  have hsteps := steps_of_inputs hl hi
  rw [hrun] at hsteps
  exact ⟨_, hsteps, rfl, by simpa using hpend, by simp [h0, h1, h2, h3, hb.replies]⟩

end Asm

/-- Settles O45: the steps are the run of the expansion (`steps_of_inputs`), taken one input at a time. -/
theorem pseudoInstructionsRunTheirExpansions : Obligations.PseudoInstructionsRunTheirExpansions :=
  ⟨fun _ _ _ _ _ _ _ hl hi hu => steps_pid hl hi hu, fun _ _ hl hi => steps_sample hl hi,
    fun _ _ _ _ _ hl => ⟨steps_args_instr hl, steps_args_instr hl⟩⟩

end Sys2Proof.Machine
